-- ==== Sys2Proof/Word.lean ====
section
/-! DEFINITION. The words of the engine: bytes, 16-bit and 32-bit words, byte strings (R8, R10), and the group of
eight 32-bit words that SHA-256 keeps (R27). -/

namespace Sys2Proof

/-- A byte, bit 0 the least significant (R8). -/
abbrev Byte := BitVec 8

/-- A `u16`, bit 15 the most significant (R8). -/
abbrev Half := BitVec 16

/-- A 32-bit word of the hash unit (R9, R27). -/
abbrev Word := BitVec 32

/-- A byte string: `s[0]` is first on the wire and first into a hash (R10). -/
abbrev Bytes := List Byte

/-- Eight 32-bit words: the chaining value `H[0..7]` and the working variables `a..h` (R27). -/
structure Eight where
  x0 : Word
  x1 : Word
  x2 : Word
  x3 : Word
  x4 : Word
  x5 : Word
  x6 : Word
  x7 : Word
  deriving DecidableEq, Repr

end Sys2Proof
end

