-- ==== Sys2Proof/Machine/Bits.lean ====
section
/-! DEFINITION. Byte-order and bit-field helpers (R8, R9, R10, R45, R142, R144). -/

namespace Sys2Proof

/-- `low(v) = v[7:0]` (R8). -/
def low (v : Half) : Byte := v.extractLsb' 0 8

/-- `high(v) = v[15:8]` (R8). -/
def high (v : Half) : Byte := v.extractLsb' 8 8

/-- The u16 whose bytes, low byte first, are `lo`, `hi` (R45). -/
def half (lo hi : Byte) : Half := hi.zeroExtend 16 <<< 8 ||| lo.zeroExtend 16

/-- `zeros(n)` (R10). -/
def zeros (n : Nat) : Bytes := List.replicate n 0x00

/-- The slice `s[a..b]` (R10). -/
def slice (s : Bytes) (a b : Nat) : Bytes := (s.take b).drop a

/-- `be32(v)`: 4 bytes, most significant first (R144). -/
def be32 (v : Word) : Bytes := [v.extractLsb' 24 8, v.extractLsb' 16 8, v.extractLsb' 8 8, v.extractLsb' 0 8]

/-- `be64(v)`: 8 bytes, most significant first (R141). -/
def be64 (v : Nat) : Bytes :=
  [BitVec.ofNat 8 (v >>> 56), BitVec.ofNat 8 (v >>> 48), BitVec.ofNat 8 (v >>> 40), BitVec.ofNat 8 (v >>> 32),
   BitVec.ofNat 8 (v >>> 24), BitVec.ofNat 8 (v >>> 16), BitVec.ofNat 8 (v >>> 8), BitVec.ofNat 8 v]

/-- A byte string read as 32-bit words, most significant byte first (R142). -/
def wordsBE : Bytes → List Word
  | a :: b :: c :: d :: rest => (a ++ b ++ c ++ d) :: wordsBE rest
  | _ => []

/-- Byte-wise exclusive or, lane by lane (R154). -/
def xorBytes (a b : Bytes) : Bytes := List.zipWith (· ^^^ ·) a b

end Sys2Proof
end

