-- ==== Sys2Proof/Machine/Crc.lean ====
section
/-! DEFINITION. The functions of the CRC unit (R90 to R94) and the two byte images the host gives it (R96). -/

namespace Sys2Proof

/-- `CRC_POLY` (R6, R91). -/
def crcPoly : Half := 0x8005

/-- `CRC_INIT` (R6, R26). -/
def crcInit : Half := 0x0000

/-- `rev8(b)`: the three swaps of R90, each on the result of the one before (C7). -/
def rev8 (b : Byte) : Byte :=
  let b1 := ((b &&& 0x55) <<< 1) ||| ((b &&& 0xAA) >>> 1)
  let b2 := ((b1 &&& 0x33) <<< 2) ||| ((b1 &&& 0xCC) >>> 2)
  ((b2 &&& 0x0F) <<< 4) ||| ((b2 &&& 0xF0) >>> 4)

/-- One of the eight shifts of R91: test bit 15, shift, then XOR the polynomial. -/
def crcShift (c : Half) : Half := if c.getLsbD 15 then (c <<< 1) ^^^ crcPoly else c <<< 1

/-- `n` shifts of R91. -/
def crcShifts : Nat → Half → Half
  | 0, c => c
  | n + 1, c => crcShifts n (crcShift c)

/-- `crc_step(crc, b)` (R91). -/
def crcStep (crc : Half) (b : Byte) : Half := crcShifts 8 (crc ^^^ (rev8 b).zeroExtend 16 <<< 8)

/-- The CRC of a whole byte string, first byte first (R93). -/
def crcOf (s : Bytes) : Half := s.foldl crcStep crcInit

/-- `crc16(bytes, offset, length)` where the range lies in the string (R93). -/
def crc16 (bytes : Bytes) (offset length : Nat) : Half := crcOf (slice bytes offset (offset + length))

/-- One shift of the bit-serial form of R92: data bit `k`, least significant first. -/
def crcSerialShift (crc : Half) (dataBit : Bool) : Half :=
  if dataBit != crc.getLsbD 15 then (crc <<< 1) ^^^ crcPoly else crc <<< 1

/-- One byte of the bit-serial form of R92. -/
def crcSerialStep (crc : Half) (b : Byte) : Half :=
  (List.range 8).foldl (fun c k => crcSerialShift c (b.getLsbD k)) crc

/-- The checksum of a Config lock: the whole 88-byte image (R96). -/
def configLockChecksum (image : Bytes) : Half := crc16 image 0 88

/-- The checksum of a Data lock: sixteen keys, then both OTP blocks (R96). -/
def dataLockChecksum (keys otp : List Bytes) : Half := crc16 (keys.flatten ++ otp.flatten) 0 576

end Sys2Proof
end

