-- ==== Sys2Proof/Config.lean ====
section
/-! DEFINITION. What an implementation fixes: the named parameters of R7, as one plain record that State holds, and the
free values, opaque constants that nothing can evaluate. The default values stand in Machine/Defaults.lean. -/

namespace Sys2Proof

/-- One byte of an `OD_LAYOUT` (R158): byte `i` of the 13 other-data bytes, or a constant. R7 and R158 do not say which
layouts the parameter ranges over; that it is any list of these pieces is the model's choice (log 24). -/
inductive OdPiece where
  /-- byte `i` of the other-data operand; `i` is 0 to 12 in the default, and an `i` past 12 stands for 0x00 (log 24) -/
  | other (i : Nat)
  /-- a constant byte: in the default a zero or one of the fixed serial bytes, here any byte (log 24) -/
  | const (b : Byte)
  deriving DecidableEq, Repr

/-- The implementation parameters of R7, each under the spec's own name. -/
structure Params where
  /-- `POLL_MAX` (R7, R24, D6): the number of read attempts of one SEND. -/
  pollMax : Nat
  /-- `FRAME_MAX` (R7, D8): the largest total frame length in bytes. -/
  frameMax : Nat
  /-- `OPC_READ` (R72) -/
  opcRead : Byte
  /-- `OPC_MAC` (R72) -/
  opcMac : Byte
  /-- `OPC_WRITE` (R72) -/
  opcWrite : Byte
  /-- `OPC_GENDIG` (R72) -/
  opcGendig : Byte
  /-- `OPC_NONCE` (R72) -/
  opcNonce : Byte
  /-- `OPC_LOCK` (R72) -/
  opcLock : Byte
  /-- `OPC_DERIVEKEY` (R72): "no operation of the engine sends it" -/
  opcDerivekey : Byte
  /-- `OPC_CHECKMAC` (R72) -/
  opcCheckmac : Byte
  /-- `ZONE_CONFIG` (R73) -/
  zoneConfig : Byte
  /-- `ZONE_OTP` (R73) -/
  zoneOtp : Byte
  /-- `ZONE_DATA` (R73) -/
  zoneData : Byte
  /-- `WR_ENC_FLAG` (R75) -/
  wrEncFlag : Byte
  /-- `LOCK_ZONE_DATA` (R79) -/
  lockZoneData : Byte
  /-- `LOCK_SKIP_FLAG` (R79) -/
  lockSkipFlag : Byte
  /-- `MAC_FLAG_REG_END` (R80); the engine does not interpret Mac flags, the host sequences use this one -/
  macFlagRegEnd : Byte
  /-- `MAC_FLAG_REG_START` (R80), not interpreted by the engine -/
  macFlagRegStart : Byte
  /-- `MAC_FLAG_REG_SOURCE` (R80), not interpreted by the engine -/
  macFlagRegSource : Byte
  /-- the first of the two `MAC_FLAG_OTP` bits (R80), not interpreted by the engine -/
  macFlagOtpFirst : Byte
  /-- the second of the two `MAC_FLAG_OTP` bits (R80), not interpreted by the engine -/
  macFlagOtpSecond : Byte
  /-- `MAC_FLAG_SERIAL` (R80), not interpreted by the engine -/
  macFlagSerial : Byte
  /-- `OD_LAYOUT` (R158, D21): how other-data is interleaved with zeros and the fixed serial bytes. -/
  odLayout : List OdPiece
  deriving DecidableEq, Repr

/-- Free value (log 4): one less than the `POLL_MAX` of the session open at reset; the spec gives none (R7, R24). -/
opaque Config.freePollMaxPred : Nat

/-- Free value (log 4): chooses the `FRAME_MAX` of the machine at reset within 8..256; the spec gives none (R7, D8). -/
opaque Config.freeFrameMax : Nat

/-- Free value (log 2): whether the oracle acknowledges the k-th access, a `TxWrite` the input queue does not answer. -/
opaque Config.freeAck : Nat → Bool

/-- Free value (log 2): whether the oracle returns bytes at the k-th access, a `TxRead` the input queue does not
answer. -/
opaque Config.freeReady : Nat → Bool

/-- Free value (log 2): byte `j` of what the k-th access, a `TxRead`, returns where the input queue does not say. -/
opaque Config.freeByte : Nat → Nat → Byte

end Sys2Proof
end

