-- ==== Sys2Proof/Machine/Defaults.lean ====
section
/-! DEFINITION. The default values of the parameters (R72 to R80, R158) and which parameter values are legal (R7, R24). -/

namespace Sys2Proof

/-- The default `OD_LAYOUT` of R158: 4 other-data bytes, 8 zeros, 3 bytes, `0xEE`, 4 bytes, `0x01 0x23`, 2 bytes. -/
def defaultOdLayout : List OdPiece :=
  [.other 0, .other 1, .other 2, .other 3] ++
  [.const 0x00, .const 0x00, .const 0x00, .const 0x00, .const 0x00, .const 0x00, .const 0x00, .const 0x00] ++
  [.other 4, .other 5, .other 6, .const 0xEE] ++
  [.other 7, .other 8, .other 9, .other 10, .const 0x01, .const 0x23] ++
  [.other 11, .other 12]

/-- The default parameters for a given `POLL_MAX` and `FRAME_MAX`, to which the spec gives no default (R7). The other
values are those of R72, R73, R75, R79, R80 and R158 (logs 3 and 12). -/
def defaultParams (pollMax frameMax : Nat) : Params :=
  { pollMax := pollMax
    frameMax := frameMax
    opcRead := 0x02
    opcMac := 0x08
    opcWrite := 0x12
    opcGendig := 0x15
    opcNonce := 0x16
    opcLock := 0x17
    opcDerivekey := 0x1C
    opcCheckmac := 0x28
    zoneConfig := 0x00
    zoneOtp := 0x01
    zoneData := 0x02
    wrEncFlag := 0x40
    lockZoneData := 0x01
    lockSkipFlag := 0x80
    macFlagRegEnd := 0x01
    macFlagRegStart := 0x02
    macFlagRegSource := 0x04
    macFlagOtpFirst := 0x10
    macFlagOtpSecond := 0x20
    macFlagSerial := 0x40
    odLayout := defaultOdLayout }

/-- The parameters of the machine at reset: the defaults, with free `POLL_MAX >= 1` and `FRAME_MAX` in 8..256 (log 4). -/
def resetParams : Params := defaultParams (Config.freePollMaxPred + 1) (Config.freeFrameMax % 249 + 8)

/-- The seven command opcodes, in the order the frame decoder asks for them (R72). -/
def commandOpcodes (p : Params) : List Byte :=
  [p.opcRead, p.opcWrite, p.opcNonce, p.opcGendig, p.opcMac, p.opcCheckmac, p.opcLock]

/-- Legal parameter values: `POLL_MAX >= 1`, `FRAME_MAX` in 8..256 (R7, R24), zone codes 0, 1 or 2 in `param1[1:0]` (R73),
and an `OD_LAYOUT` whose message fits the 96 bytes of `MSG` (R27, R157). R7, R72 and R73 do not ask that the seven command
opcodes differ from one another, nor that the zone codes do: that is the model's choice (log 26), and so is that nothing
else is asked of an `OD_LAYOUT` (log 24). -/
def paramsLegal (p : Params) : Bool :=
  decide (1 ≤ p.pollMax) && decide (8 ≤ p.frameMax) && decide (p.frameMax ≤ 256) &&
  decide (commandOpcodes p).Nodup && decide [p.zoneConfig, p.zoneOtp, p.zoneData].Nodup &&
  decide (p.zoneConfig.toNat ≤ 2) && decide (p.zoneOtp.toNat ≤ 2) && decide (p.zoneData.toNat ≤ 2) &&
  decide (p.odLayout.length ≤ 32)

end Sys2Proof
end

