-- ==== Sys2Proof/Machine/Sha.lean ====
section
/-! DEFINITION. The SHA-256 functions of the hash unit (R140 to R146). -/

namespace Sys2Proof

/-- `rotr32(v, n)` (R9). -/
def rotr32 (v : Word) (n : Nat) : Word := v.rotateRight n

/-- `s0` of the message schedule (R143). -/
def scheduleS0 (w : Word) : Word := rotr32 w 7 ^^^ rotr32 w 18 ^^^ (w >>> 3)

/-- `s1` of the message schedule (R143). -/
def scheduleS1 (w : Word) : Word := rotr32 w 17 ^^^ rotr32 w 19 ^^^ (w >>> 10)

/-- `W[t]` from the words before it, newest first: position 0 is `W[t-1]`, position 15 is `W[t-16]` (R143). -/
def scheduleNext (newest : List Word) : Word :=
  newest.getD 15 0 + scheduleS0 (newest.getD 14 0) + newest.getD 6 0 + scheduleS1 (newest.getD 1 0)

/-- `n` more words of the schedule, put before the words so far, newest first (R143). -/
def scheduleMore : Nat → List Word → List Word
  | 0, newest => newest
  | n + 1, newest => scheduleMore n (scheduleNext newest :: newest)

/-- `W[0..63]` of a 64-byte block (R142, R143). -/
def schedule (block : Bytes) : List Word := (scheduleMore 48 (wordsBE block).reverse).reverse

/-- The round constants `K[0..63]` (R145). -/
def roundConstants : List Word :=
  [0x428a2f98, 0x71374491, 0xb5c0fbcf, 0xe9b5dba5, 0x3956c25b, 0x59f111f1, 0x923f82a4, 0xab1c5ed5] ++
  [0xd807aa98, 0x12835b01, 0x243185be, 0x550c7dc3, 0x72be5d74, 0x80deb1fe, 0x9bdc06a7, 0xc19bf174] ++
  [0xe49b69c1, 0xefbe4786, 0x0fc19dc6, 0x240ca1cc, 0x2de92c6f, 0x4a7484aa, 0x5cb0a9dc, 0x76f988da] ++
  [0x983e5152, 0xa831c66d, 0xb00327c8, 0xbf597fc7, 0xc6e00bf3, 0xd5a79147, 0x06ca6351, 0x14292967] ++
  [0x27b70a85, 0x2e1b2138, 0x4d2c6dfc, 0x53380d13, 0x650a7354, 0x766a0abb, 0x81c2c92e, 0x92722c85] ++
  [0xa2bfe8a1, 0xa81a664b, 0xc24b8b70, 0xc76c51a3, 0xd192e819, 0xd6990624, 0xf40e3585, 0x106aa070] ++
  [0x19a4c116, 0x1e376c08, 0x2748774c, 0x34b0bcb5, 0x391c0cb3, 0x4ed8aa4a, 0x5b9cca4f, 0x682e6ff3] ++
  [0x748f82ee, 0x78a5636f, 0x84c87814, 0x8cc70208, 0x90befffa, 0xa4506ceb, 0xbef9a3f7, 0xc67178f2]

/-- `H_init` (R146). -/
def hashInit : Eight :=
  { x0 := 0x6a09e667, x1 := 0xbb67ae85, x2 := 0x3c6ef372, x3 := 0xa54ff53a,
    x4 := 0x510e527f, x5 := 0x9b05688c, x6 := 0x1f83d9ab, x7 := 0x5be0cd19 }

/-- One round with constant `k` and schedule word `w`; `x0..x7` are `a..h` (R143). -/
def hashRound (v : Eight) (k w : Word) : Eight :=
  let s1 := rotr32 v.x4 6 ^^^ rotr32 v.x4 11 ^^^ rotr32 v.x4 25
  let ch := (v.x4 &&& v.x5) ^^^ (~~~v.x4 &&& v.x6)
  let t1 := v.x7 + s1 + ch + k + w
  let s0 := rotr32 v.x0 2 ^^^ rotr32 v.x0 13 ^^^ rotr32 v.x0 22
  let maj := (v.x0 &&& v.x1) ^^^ (v.x0 &&& v.x2) ^^^ (v.x1 &&& v.x2)
  let t2 := s0 + maj
  { x0 := t1 + t2, x1 := v.x0, x2 := v.x1, x3 := v.x2, x4 := v.x3 + t1, x5 := v.x4, x6 := v.x5, x7 := v.x6 }

/-- The rounds over the constants and the schedule in step (R143). -/
def hashRounds : Eight → List Word → List Word → Eight
  | v, k :: ks, w :: ws => hashRounds (hashRound v k w) ks ws
  | v, _, _ => v

/-- `H[i] +32 v[i]` for each of the eight words (R143). -/
def addEight (h v : Eight) : Eight :=
  { x0 := h.x0 + v.x0, x1 := h.x1 + v.x1, x2 := h.x2 + v.x2, x3 := h.x3 + v.x3,
    x4 := h.x4 + v.x4, x5 := h.x5 + v.x5, x6 := h.x6 + v.x6, x7 := h.x7 + v.x7 }

/-- The working variables `a..h` after the 64 rounds of a block (R143). -/
def blockVars (h : Eight) (block : Bytes) : Eight := hashRounds h roundConstants (schedule block)

/-- `compress(H, block)` (R143). -/
def compress (h : Eight) (block : Bytes) : Eight := addEight h (blockVars h block)

/-- Block `j` of the padded message: `M[64*j .. 64*j+64]` (R140). -/
def blockAt (m : Bytes) (j : Nat) : Bytes := slice m (64 * j) (64 * j + 64)

/-- The chaining value after the first `n` blocks of the padded message `m` (R140). -/
def chain (m : Bytes) : Nat → Eight
  | 0 => hashInit
  | n + 1 => compress (chain m n) (blockAt m n)

/-- The number `k` of zero bytes of the padding: the smallest with `(l + 1 + k + 8) mod 64 = 0` (R141). -/
def padZeros (l : Nat) : Nat := (64 - (l + 9) % 64) % 64

/-- `pad(msg)` (R141). -/
def pad (msg : Bytes) : Bytes := msg ++ [0x80] ++ zeros (padZeros msg.length) ++ be64 (8 * msg.length)

/-- The number `N` of blocks of a padded message of `l` bytes (R140, R141). -/
def blockCount (l : Nat) : Nat := (l + 9 + padZeros l) / 64

/-- The digest of a chaining value, `H[0]` first, each word most significant byte first (R144). -/
def digestOf (h : Eight) : Bytes :=
  be32 h.x0 ++ be32 h.x1 ++ be32 h.x2 ++ be32 h.x3 ++ be32 h.x4 ++ be32 h.x5 ++ be32 h.x6 ++ be32 h.x7

/-- `SHA256(msg)` (R140). -/
def sha256 (msg : Bytes) : Bytes := digestOf (chain (pad msg) (blockCount msg.length))

end Sys2Proof
end

