-- ==== Sys2Proof/Syntax.lean ====
section
/-! DEFINITION. Requests, frames and the instructions: one constructor of `Instr` per row of spec/opcode_table.json
(19 of format OPREQ, 7 of format WIRE, 1 of format RESP; R61, R85). -/

namespace Sys2Proof

/-- The chip's three zones (R42, R73, R82). -/
inductive Zone where
  | config
  | otp
  | data
  deriving DecidableEq, Repr

/-- One operand of a request: "a byte string of stated length, a u8, a u16, a natural number or a boolean, carried by
value" (R60), and `absent` for the optional `mac` of CMD.WRITE (R123). -/
inductive Operand where
  | bytes (b : Bytes)
  | u8 (v : Byte)
  | u16 (v : Half)
  | nat (n : Nat)
  | bool (b : Bool)
  | absent
  deriving DecidableEq, Repr

/-- An operation request `{opsel: u8, operands}` (R60). -/
structure Request where
  opsel : Byte
  operands : List Operand
  deriving DecidableEq, Repr

/-- A command frame without its flag byte and opcode (R66): what a WIRE row of the table leaves free (R85). -/
structure Frame where
  /-- byte 1 -/
  count : Byte
  /-- byte 3 -/
  param1 : Byte
  /-- bytes 4 and 5, low byte first -/
  param2 : Half
  /-- bytes 6 .. 6+P-1 -/
  payload : Bytes
  /-- bytes 6+P and 7+P, low byte first -/
  crc : Half
  deriving DecidableEq, Repr

/-- What is encoded in this hardware: a request (format OPREQ), a command frame (WIRE) or a response (RESP). -/
inductive Code where
  | request (r : Request)
  | frame (bs : Bytes)
  | response (bs : Bytes)
  deriving DecidableEq, Repr

/-- Why a decoder refuses, by name. -/
inductive Reject where
  /-- an unassigned `opsel` (R62) -/
  | badOpsel (opsel : Byte)
  /-- the operands are not in number and kind those R61 lists for the operation -/
  | operandShape (opsel : Byte)
  /-- fewer than the 8 bytes every frame has (R66) -/
  | shortFrame
  /-- byte 0 of a frame is not 0x03 (R66, R67) -/
  | wrongFlag (b : Byte)
  /-- byte 2 of a frame is the opcode of no command of the table (R72) -/
  | unnamedOpcode (b : Byte)
  /-- a response without its length byte (R69) -/
  | emptyResponse
  deriving DecidableEq, Repr

/-- The assigned `opsel` values by name (R61). -/
inductive OpName where
  | crc16
  | frame
  | parse
  | send
  | cmdRead
  | cmdWrite
  | cmdNonce
  | cmdGendig
  | cmdMac
  | cmdCheckmac
  | cmdLock
  | sha256
  | derivekey
  | noncemix
  | sesskey
  | xor32
  | wrmac
  | macresp
  | validate
  deriving DecidableEq, Repr

/-- The instructions. A `zone` operand is the zone code as the request carries it (R73); byte strings may have any
length, since a wrong length is refused by the operation itself (R41, R174). -/
inductive Instr where
  /-- CRC16 (R93) -/
  | crc16 (bytes : Bytes) (offset length : Nat)
  /-- FRAME (R100) -/
  | frame (opcode param1 : Byte) (param2 : Half) (payload : Bytes)
  /-- PARSE (R102) -/
  | parse (rx : Bytes)
  /-- SEND (R104) -/
  | send (opcode param1 : Byte) (param2 : Half) (payload : Bytes) (respLen : Nat)
  /-- CMD.READ (R122) -/
  | cmdRead (zone : Byte) (block offset : Nat) (fourByte : Bool)
  /-- CMD.WRITE (R123) -/
  | cmdWrite (zone : Byte) (block offset : Nat) (data : Bytes) (mac : Option Bytes) (encrypted : Bool)
  /-- CMD.NONCE (R124) -/
  | cmdNonce (mode : Byte) (input : Bytes)
  /-- CMD.GENDIG (R125) -/
  | cmdGendig (zone : Byte) (slot : Nat) (extra : Bytes)
  /-- CMD.MAC (R126) -/
  | cmdMac (slot : Nat) (challenge : Bytes) (flags : Byte)
  /-- CMD.CHECKMAC (R127) -/
  | cmdCheckmac (slot : Nat) (challenge response otherData : Bytes) (flags : Byte)
  /-- CMD.LOCK (R128) -/
  | cmdLock (isData : Bool) (checksum : Half) (skipChecksum : Bool)
  /-- SHA256 (R140) -/
  | sha256 (msg : Bytes)
  /-- DERIVEKEY (R151) -/
  | derivekey (rootKey : Bytes) (targetSlot : Nat) (serial : Bytes)
  /-- NONCEMIX (R152) -/
  | noncemix (nonceSeed input : Bytes) (mode : Byte)
  /-- SESSKEY (R153) -/
  | sesskey (slotKey : Bytes) (slot : Nat) (serial chipNonce : Bytes)
  /-- XOR32 (R154) -/
  | xor32 (a b : Bytes)
  /-- WRMAC (R155) -/
  | wrmac (sessionKey : Bytes) (slot : Nat) (serial plaintext : Bytes)
  /-- MACRESP (R157) -/
  | macresp (key challenge otherData : Bytes)
  /-- VALIDATE (R159) -/
  | validate (serial deviceRandom challengeInput rootKey : Bytes) (slot : Nat) (mode : Byte)
  /-- WIRE.READ: the command frame of CMD.READ (R66, R122) -/
  | wireRead (f : Frame)
  /-- WIRE.WRITE: the command frame of CMD.WRITE (R66, R123) -/
  | wireWrite (f : Frame)
  /-- WIRE.NONCE: the command frame of CMD.NONCE (R66, R124) -/
  | wireNonce (f : Frame)
  /-- WIRE.GENDIG: the command frame of CMD.GENDIG (R66, R125) -/
  | wireGendig (f : Frame)
  /-- WIRE.MAC: the command frame of CMD.MAC (R66, R126) -/
  | wireMac (f : Frame)
  /-- WIRE.CHECKMAC: the command frame of CMD.CHECKMAC (R66, R127) -/
  | wireCheckmac (f : Frame)
  /-- WIRE.LOCK: the command frame of CMD.LOCK (R66, R128) -/
  | wireLock (f : Frame)
  /-- RESPONSE: the length byte `L` of a response and the bytes a read returned after it (R69, R102) -/
  | response (len : Byte) (rest : Bytes)
  deriving DecidableEq, Repr

end Sys2Proof
end

