-- ==== Sys2Proof/Machine/Operands.lean ====
section
/-! DEFINITION. Operand checks and operand assembly: zone codes, locations, frames, responses and the hash messages
(R43, R66, R69, R71 to R81, R151 to R158). Nothing here reads or writes State. -/

namespace Sys2Proof

/-- `CMD_FLAG` (R6, R66). -/
def cmdFlag : Byte := 0x03

/-- `COUNT_BASE` (R6, R66). -/
def countBase : Nat := 0x07

/-- `RESP_READ_LEN` (R6, R120). -/
def respReadLen : Nat := 38

/-- `ERR_ENVELOPE_LEN` (R6, R70). -/
def errEnvelopeLen : Nat := 4

/-- `NONCE_PASSTHROUGH` (R6, R124, R152). -/
def noncePassthrough : Byte := 0x03

/-- The limit on the Nonce input: 32 in pass-through, `NONCE_IN_MAX = 20` in the combining modes (R6, R124, C4, C10). -/
def nonceInputMax (mode : Byte) : Nat := if mode = noncePassthrough then 32 else 20

/-- `KEY_LEN = DIGEST_LEN = 32` (R6). -/
def keyLen : Nat := 32

/-- `SERIAL_LEN` (R6). -/
def serialLen : Nat := 9

/-- `OTHER_DATA_LEN` (R6). -/
def otherDataLen : Nat := 13

/-- `SLOT_COUNT` (R6): slots are 0 to 15 (R12, D19). -/
def slotCount : Nat := 16

/-- The zone a zone code names; the code of no zone is refused (R73, R174). -/
def zoneOfCode (p : Params) (code : Byte) : Option Zone :=
  if code = p.zoneConfig then some .config
  else if code = p.zoneOtp then some .otp
  else if code = p.zoneData then some .data
  else none

/-- `code(zone)` (R73). -/
def zoneCode (p : Params) : Zone → Byte
  | .config => p.zoneConfig
  | .otp => p.zoneOtp
  | .data => p.zoneData

/-- The word location `(block << 3) + offset` on unbounded naturals (R43, R74), not the early `block << (3 + offset)` (U23). -/
def location (block offset : Nat) : Nat := (block <<< 3) + offset

/-- Whether a location fits `param2` (R74). -/
def locationFits (block offset : Nat) : Bool := decide (location block offset < 2 ^ 16)

/-- `param2` of Read and Write (R74). -/
def locationParam (block offset : Nat) : Half := BitVec.ofNat 16 (location block offset)

/-- The first six bytes of a frame with a payload of `n` bytes (R66). -/
def frameHeader (opcode param1 : Byte) (param2 : Half) (n : Nat) : Bytes :=
  [cmdFlag, BitVec.ofNat 8 (countBase + n), opcode, param1, low param2, high param2]

/-- The CRC of a frame: from the count byte to the last payload byte (R66, C1). -/
def frameCrc (opcode param1 : Byte) (param2 : Half) (payload : Bytes) : Half :=
  crc16 (frameHeader opcode param1 param2 payload.length ++ payload) 1 (5 + payload.length)

/-- The frame FRAME builds (R66, R100). -/
def frameBytes (opcode param1 : Byte) (param2 : Half) (payload : Bytes) : Bytes :=
  frameHeader opcode param1 param2 payload.length ++ payload ++
    [low (frameCrc opcode param1 param2 payload), high (frameCrc opcode param1 param2 payload)]

/-- Whether a frame with this payload fits `FRAME_MAX` (R100, D8). -/
def frameFits (p : Params) (payload : Bytes) : Bool := decide (8 + payload.length ≤ p.frameMax)

/-- The bytes of a command frame with the given opcode, in transmission order (R66). -/
def Frame.bytes (f : Frame) (opcode : Byte) : Bytes :=
  [cmdFlag, f.count, opcode, f.param1, low f.param2, high f.param2] ++ f.payload ++ [low f.crc, high f.crc]

/-- A frame is well formed: `count >= 7`, `count + 1 <= FRAME_MAX`, `len(frame) = count + 1`, byte 0 is `0x03`, and the
last two bytes equal the CRC (R67). -/
def frameWellFormed (p : Params) (bs : Bytes) : Bool :=
  match bs with
  | flag :: count :: _ =>
    decide (flag = cmdFlag) && decide (7 ≤ count.toNat) && decide (count.toNat + 1 ≤ p.frameMax) &&
    decide (bs.length = count.toNat + 1) &&
    decide (bs.drop (count.toNat - 1) =
      [low (crc16 bs 1 (count.toNat - 2)), high (crc16 bs 1 (count.toNat - 2))])
  | _ => false

/-- The length byte of a response is valid for a read of `rx.length` bytes: `4 <= L <= n` (R102, D9). -/
def respLenValid (len : Byte) (rx : Bytes) : Bool :=
  decide (errEnvelopeLen ≤ len.toNat) && decide (len.toNat ≤ rx.length)

/-- The two trailing bytes of a response of length `len` equal its CRC, low byte first (R69, R102, D10). -/
def respCrcValid (len : Byte) (rx : Bytes) : Bool :=
  decide (slice rx (len.toNat - 2) len.toNat =
    [low (crc16 rx 0 (len.toNat - 2)), high (crc16 rx 0 (len.toNat - 2))])

/-- The error envelope: `L = 4` and a non-zero second byte (R70). -/
def isErrorEnvelope (len : Byte) (rx : Bytes) : Bool :=
  decide (len.toNat = errEnvelopeLen) && decide (rx.getD 1 0x00 ≠ 0x00)

/-- The status or data bytes of a response: `RX[1 .. L-2]`, `L - 3` bytes (R69, R102). -/
def respData (len : Byte) (rx : Bytes) : Bytes := slice rx 1 (len.toNat - 2)

/-- The data length Read expects (R121). -/
def readLen (fourByte : Bool) : Nat := if fourByte then 4 else 32

/-- The data length Nonce expects: a status byte in pass-through, else the 32-byte seed (R121). -/
def nonceLen (mode : Byte) : Nat := if mode = noncePassthrough then 1 else 32

/-- A data operand of CMD.WRITE has 4 or 32 bytes (R123). -/
def writeDataOk (data : Bytes) : Bool := decide (data.length = 4) || decide (data.length = 32)

/-- A `mac` operand of CMD.WRITE is absent or has 32 bytes (R123). -/
def writeMacOk (mac : Option Bytes) : Bool :=
  match mac with
  | none => true
  | some m => decide (m.length = 32)

/-- The payload of CMD.WRITE: `data`, then the MAC where there is one (R123). -/
def writePayload (data : Bytes) (mac : Option Bytes) : Bytes := data ++ mac.getD []

/-- A `challenge` operand of CMD.MAC is empty or has 32 bytes (R126). -/
def macChallengeOk (challenge : Bytes) : Bool := decide (challenge.length = 0) || decide (challenge.length = 32)

/-- A slot is 0 to 15 (R174, D19). -/
def slotOk (slot : Nat) : Bool := decide (slot < slotCount)

/-- `slot` as a u16, as `param2` carries it (R77, R78, R80). -/
def slotParam (slot : Nat) : Half := BitVec.ofNat 16 slot

/-- `addr = slot << 3` of the write-MAC message, a u16 (R155). -/
def slotAddr (slot : Nat) : Half := BitVec.ofNat 16 (slot <<< 3)

/-- A byte string has the stated length (R41). -/
def lenOk (s : Bytes) (n : Nat) : Bool := decide (s.length = n)

/-- `serial[8], serial[0], serial[1]` of the operand (R153, R155, R156). -/
def serialTail (serial : Bytes) : Bytes := [serial.getD 8 0x00, serial.getD 0 0x00, serial.getD 1 0x00]

/-- The message of DERIVEKEY, 96 bytes (R151). -/
def derivekeyMsg (rootKey : Bytes) (targetSlot : Nat) (serial : Bytes) : Bytes :=
  rootKey ++ [0x1C, 0x04, low (BitVec.ofNat 16 targetSlot), high (BitVec.ofNat 16 targetSlot)] ++
    [0xEE, 0x01, 0x23] ++ zeros 25 ++ serial ++ zeros 23

/-- The message of NONCEMIX in a combining mode, `32 + n + 3` bytes (R152). -/
def noncemixMsg (nonceSeed input : Bytes) (mode : Byte) : Bytes := nonceSeed ++ input ++ [0x16, mode, 0x00]

/-- The message of SESSKEY, 96 bytes (R153). -/
def sesskeyMsg (slotKey : Bytes) (slot : Nat) (serial chipNonce : Bytes) : Bytes :=
  slotKey ++ [0x15, 0x02, low (slotParam slot), 0x00] ++ serialTail serial ++ zeros 25 ++ chipNonce

/-- The message of WRMAC, 96 bytes (R155). -/
def wrmacMsg (sessionKey : Bytes) (slot : Nat) (serial plaintext : Bytes) : Bytes :=
  sessionKey ++ [0x12, 0x82, low (slotAddr slot), high (slotAddr slot)] ++ serialTail serial ++ zeros 25 ++ plaintext

/-- One byte of the interleaved other-data (R158); a piece past the 13 other-data bytes gives 0x00 (log 24). -/
def odByte (od : Bytes) : OdPiece → Byte
  | .other i => od.getD i 0x00
  | .const b => b

/-- `interleave(od)` under an `OD_LAYOUT` (R158). -/
def interleave (layout : List OdPiece) (od : Bytes) : Bytes := layout.map (odByte od)

/-- The message of MACRESP (R157). -/
def macrespMsg (layout : List OdPiece) (key challenge otherData : Bytes) : Bytes :=
  key ++ challenge ++ interleave layout otherData

/-- The other-data of the validator, `[0x08, 0x01, slot] ++ zeros(10)` (R159). -/
def validatorOd (slot : Nat) : Bytes := [0x08, 0x01, BitVec.ofNat 8 slot] ++ zeros 10

/-- The operand check of NONCEMIX (R150, R152). -/
def noncemixOk (nonceSeed input : Bytes) (mode : Byte) : Bool :=
  lenOk nonceSeed keyLen && decide (input.length ≤ nonceInputMax mode)

/-- The operand check of VALIDATE: the stated lengths, the slot, the check of NONCEMIX, and `len(cn) = 32`, which only a
pass-through input can miss (R144, R159, R174). -/
def validateOk (serial deviceRandom challengeInput rootKey : Bytes) (slot : Nat) (mode : Byte) : Bool :=
  lenOk serial serialLen && lenOk rootKey keyLen && slotOk slot && noncemixOk deviceRandom challengeInput mode &&
  (decide (mode ≠ noncePassthrough) || lenOk challengeInput keyLen)

/-- The operand check of a range of CRC16 (R93). -/
def rangeOk (bytes : Bytes) (offset length : Nat) : Bool := decide (offset + length ≤ bytes.length)

/-- `expected_response_len` is 4 to 255 (R104, R174). -/
def respLenOk (n : Nat) : Bool := decide (4 ≤ n) && decide (n ≤ 255)

/-- The message of SHA256 has fewer than 2^61 bytes (R140; log 11). -/
def msgOk (msg : Bytes) : Bool := decide (msg.length < 2 ^ 61)

end Sys2Proof
end

