-- ==== Sys2Proof/Machine/Flags.lean ====
section
/-! DEFINITION. The flag bits of `param1` (R74, R75, R79). The engine itself has no flags or condition codes (R22): these
are the bits a command frame carries. -/

namespace Sys2Proof

/-- `SZ`: `0x80` when 32 bytes are moved, `0x00` when 4 are (R74). -/
def sizeBit (thirtyTwo : Bool) : Byte := if thirtyTwo then 0x80 else 0x00

/-- A flag bit, set or not. -/
def flagIf (set : Bool) (flag : Byte) : Byte := if set then flag else 0x00

/-- `param1` of Read: `zone | SZ` (R74, R122). -/
def readParam1 (p : Params) (zone : Zone) (fourByte : Bool) : Byte := zoneCode p zone ||| sizeBit (!fourByte)

/-- `param1` of Write: `zone | SZ | (WR_ENC_FLAG if encrypted)` (R75, R123). -/
def writeParam1 (p : Params) (zone : Zone) (data : Bytes) (encrypted : Bool) : Byte :=
  zoneCode p zone ||| sizeBit (decide (data.length = 32)) ||| flagIf encrypted p.wrEncFlag

/-- `param1` of Lock (R79, R128). -/
def lockParam1 (p : Params) (isData skipChecksum : Bool) : Byte :=
  flagIf isData p.lockZoneData ||| flagIf skipChecksum p.lockSkipFlag

/-- Whether the size bit of a Read `param1` says 32 bytes (R74). -/
def sizeBitSet (param1 : Byte) : Bool := param1.getLsbD 7

end Sys2Proof
end

