-- ==== Sys2Proof/WellFormed.lean ====
section
/-! DEFINITION. Well-formed instructions: every operand lies in the domain its rule states (R41, R150, R174), a frame is
one that a command operation can build (R67, R122 to R128), a response has a valid envelope (R69). An ill-formed request
is not shut out of the machine: it runs, and its outcome is `BadOperand` (R174). -/

namespace Sys2Proof

/-- The zone code names a zone (R73). -/
def zoneOk (p : Params) (zone : Byte) : Bool := (zoneOfCode p zone).isSome

/-- `param1` of a Read frame: a zone and a size bit, nothing else (R74, R82). -/
def readFrameOk (p : Params) (f : Frame) : Bool :=
  decide (f.payload = []) &&
  [Zone.config, Zone.otp, Zone.data].any fun z => [false, true].any fun fb => decide (f.param1 = readParam1 p z fb)

/-- The fields of a Write frame: 4 or 32 data bytes, 32 MAC bytes or none, and a `param1` that says so (R75, R123). -/
def writeFrameOk (p : Params) (f : Frame) : Bool :=
  (decide (f.payload.length ∈ [4, 36]) &&
    [Zone.config, Zone.otp, Zone.data].any fun z => [false, true].any fun e =>
      decide (f.param1 = writeParam1 p z (zeros 4) e)) ||
  (decide (f.payload.length ∈ [32, 64]) &&
    [Zone.config, Zone.otp, Zone.data].any fun z => [false, true].any fun e =>
      decide (f.param1 = writeParam1 p z (zeros 32) e))

/-- The fields of a Nonce frame (R76, R124). -/
def nonceFrameOk (f : Frame) : Bool :=
  decide (f.param2 = 0x0000) && decide (f.payload.length ≤ nonceInputMax f.param1)

/-- The fields of a GenDig frame (R77, R125). -/
def gendigFrameOk (p : Params) (f : Frame) : Bool := zoneOk p f.param1 && slotOk f.param2.toNat

/-- The fields of a Mac frame (R80, R126). -/
def macFrameOk (f : Frame) : Bool := slotOk f.param2.toNat && macChallengeOk f.payload

/-- The fields of a CheckMac frame: 32 + 32 + 13 = 77 payload bytes (R78, R127). -/
def checkmacFrameOk (f : Frame) : Bool := slotOk f.param2.toNat && lenOk f.payload 77

/-- The fields of a Lock frame (R79, R128). -/
def lockFrameOk (p : Params) (f : Frame) : Bool :=
  decide (f.payload = []) &&
  [false, true].any fun d => [false, true].any fun k => decide (f.param1 = lockParam1 p d k)

/-- Every operand of the instruction lies in the domain its rule states. -/
def wellFormed (p : Params) : Instr → Bool
  | .crc16 bytes offset length => rangeOk bytes offset length
  | .frame _ _ _ payload => frameFits p payload
  | .parse rx => decide (rx ≠ [])
  | .send _ _ _ payload respLen => respLenOk respLen && frameFits p payload
  | .cmdRead zone block offset _ => zoneOk p zone && locationFits block offset && frameFits p []
  | .cmdWrite zone block offset data mac _ =>
    zoneOk p zone && writeDataOk data && writeMacOk mac && locationFits block offset &&
    frameFits p (writePayload data mac)
  | .cmdNonce mode input => decide (input.length ≤ nonceInputMax mode) && frameFits p input
  | .cmdGendig zone slot extra => zoneOk p zone && slotOk slot && frameFits p extra
  | .cmdMac slot challenge _ => slotOk slot && macChallengeOk challenge && frameFits p challenge
  | .cmdCheckmac slot challenge response otherData _ =>
    slotOk slot && lenOk challenge 32 && lenOk response 32 && lenOk otherData otherDataLen &&
    frameFits p (challenge ++ response ++ otherData)
  | .cmdLock _ _ _ => frameFits p []
  | .sha256 msg => msgOk msg
  | .derivekey rootKey targetSlot serial => lenOk rootKey keyLen && decide (targetSlot < 2 ^ 16) && lenOk serial serialLen
  | .noncemix nonceSeed input mode => noncemixOk nonceSeed input mode
  | .sesskey slotKey slot serial chipNonce =>
    lenOk slotKey keyLen && slotOk slot && lenOk serial serialLen && lenOk chipNonce keyLen
  | .xor32 a b => lenOk a 32 && lenOk b 32
  | .wrmac sessionKey slot serial plaintext =>
    lenOk sessionKey keyLen && slotOk slot && lenOk serial serialLen && lenOk plaintext keyLen
  | .macresp key challenge otherData => lenOk key keyLen && lenOk challenge keyLen && lenOk otherData otherDataLen
  | .validate serial deviceRandom challengeInput rootKey slot mode =>
    validateOk serial deviceRandom challengeInput rootKey slot mode
  | .wireRead f => frameWellFormed p (f.bytes p.opcRead) && readFrameOk p f
  | .wireWrite f => frameWellFormed p (f.bytes p.opcWrite) && writeFrameOk p f
  | .wireNonce f => frameWellFormed p (f.bytes p.opcNonce) && nonceFrameOk f
  | .wireGendig f => frameWellFormed p (f.bytes p.opcGendig) && gendigFrameOk p f
  | .wireMac f => frameWellFormed p (f.bytes p.opcMac) && macFrameOk f
  | .wireCheckmac f => frameWellFormed p (f.bytes p.opcCheckmac) && checkmacFrameOk f
  | .wireLock f => frameWellFormed p (f.bytes p.opcLock) && lockFrameOk p f
  | .response len rest => respLenValid len (len :: rest) && respCrcValid len (len :: rest)

end Sys2Proof
end

