-- ==== Sys2Proof/Decode.lean ====
section
/-! DEFINITION. The decoder of the three formats (R60 to R62, R66, R67, R69, R85), the encoder, and the decoder as the
opcode table numbers its bits. -/

namespace Sys2Proof

/-- The operation an `opsel` selects; every value not in R61 is unassigned (R61, R62). -/
def opNameOf (opsel : Byte) : Option OpName :=
  match opsel.toNat with
  | 0x01 => some .crc16
  | 0x10 => some .frame
  | 0x11 => some .parse
  | 0x12 => some .send
  | 0x20 => some .cmdRead
  | 0x21 => some .cmdWrite
  | 0x22 => some .cmdNonce
  | 0x23 => some .cmdGendig
  | 0x24 => some .cmdMac
  | 0x25 => some .cmdCheckmac
  | 0x26 => some .cmdLock
  | 0x30 => some .sha256
  | 0x31 => some .derivekey
  | 0x32 => some .noncemix
  | 0x33 => some .sesskey
  | 0x34 => some .xor32
  | 0x35 => some .wrmac
  | 0x36 => some .macresp
  | 0x37 => some .validate
  | _ => none

/-- The operands of an operation, in the order and kinds of R61; any other list is ill-typed (R60, D7; log 13). The
`target_slot` of DERIVEKEY is a u16 (R61); a natural number stands there only above `0xFFFF`, for the operation itself to
refuse (R150). -/
def operandsOf : OpName → List Operand → Option Instr
  | .crc16, [.bytes b, .nat o, .nat l] => some (.crc16 b o l)
  | .frame, [.u8 c, .u8 p1, .u16 p2, .bytes pl] => some (.frame c p1 p2 pl)
  | .parse, [.bytes rx] => some (.parse rx)
  | .send, [.u8 c, .u8 p1, .u16 p2, .bytes pl, .nat n] => some (.send c p1 p2 pl n)
  | .cmdRead, [.u8 z, .nat b, .nat o, .bool f] => some (.cmdRead z b o f)
  | .cmdWrite, [.u8 z, .nat b, .nat o, .bytes d, .absent, .bool e] => some (.cmdWrite z b o d none e)
  | .cmdWrite, [.u8 z, .nat b, .nat o, .bytes d, .bytes m, .bool e] => some (.cmdWrite z b o d (some m) e)
  | .cmdNonce, [.u8 m, .bytes i] => some (.cmdNonce m i)
  | .cmdGendig, [.u8 z, .nat s, .bytes x] => some (.cmdGendig z s x)
  | .cmdMac, [.nat s, .bytes c, .u8 f] => some (.cmdMac s c f)
  | .cmdCheckmac, [.nat s, .bytes c, .bytes r, .bytes o, .u8 f] => some (.cmdCheckmac s c r o f)
  | .cmdLock, [.bool d, .u16 c, .bool k] => some (.cmdLock d c k)
  | .sha256, [.bytes m] => some (.sha256 m)
  | .derivekey, [.bytes r, .u16 t, .bytes s] => some (.derivekey r t.toNat s)
  | .derivekey, [.bytes r, .nat t, .bytes s] => if t < 2 ^ 16 then none else some (.derivekey r t s)
  | .noncemix, [.bytes n, .bytes i, .u8 m] => some (.noncemix n i m)
  | .sesskey, [.bytes k, .nat s, .bytes sn, .bytes cn] => some (.sesskey k s sn cn)
  | .xor32, [.bytes a, .bytes b] => some (.xor32 a b)
  | .wrmac, [.bytes k, .nat s, .bytes sn, .bytes pt] => some (.wrmac k s sn pt)
  | .macresp, [.bytes k, .bytes c, .bytes o] => some (.macresp k c o)
  | .validate, [.bytes sn, .bytes dr, .bytes ci, .bytes rk, .nat s, .u8 m] => some (.validate sn dr ci rk s m)
  | _, _ => none

/-- Decode a request (format OPREQ): first the `opsel`, then the operands (R61, R62, R177). -/
def decodeRequest (r : Request) : Except Reject Instr :=
  match opNameOf r.opsel with
  | none => .error (.badOpsel r.opsel)
  | some op =>
    match operandsOf op r.operands with
    | none => .error (.operandShape r.opsel)
    | some i => .ok i

/-- Tell a command frame by its opcode (R72, R85). -/
def wireOf (p : Params) (opcode : Byte) (f : Frame) : Except Reject Instr :=
  if opcode = p.opcRead then .ok (.wireRead f)
  else if opcode = p.opcWrite then .ok (.wireWrite f)
  else if opcode = p.opcNonce then .ok (.wireNonce f)
  else if opcode = p.opcGendig then .ok (.wireGendig f)
  else if opcode = p.opcMac then .ok (.wireMac f)
  else if opcode = p.opcCheckmac then .ok (.wireCheckmac f)
  else if opcode = p.opcLock then .ok (.wireLock f)
  else .error (.unnamedOpcode opcode)

/-- Decode a command frame (format WIRE): byte 0 is the flag, byte 1 is free, byte 2 is the opcode (R66, R85). Whether
the count byte and the CRC are right is well-formedness (R67). -/
def decodeFrame (p : Params) (bs : Bytes) : Except Reject Instr :=
  match bs with
  | flag :: count :: opcode :: param1 :: lo :: hi :: rest =>
    match rest.drop (rest.length - 2) with
    | [clo, chi] =>
      if flag = cmdFlag then
        wireOf p opcode
          { count := count, param1 := param1, param2 := half lo hi,
            payload := rest.take (rest.length - 2), crc := half clo chi }
      else .error (.wrongFlag flag)
    | _ => .error .shortFrame
  | _ => .error .shortFrame

/-- Decode a response (format RESP): its one row matches every response; byte 0 is `L` (R69, R85). -/
def decodeResponse (bs : Bytes) : Except Reject Instr :=
  match bs with
  | len :: rest => .ok (.response len rest)
  | [] => .error .emptyResponse

/-- Decode an encoding of any of the three formats. -/
def decode (p : Params) : Code → Except Reject Instr
  | .request r => decodeRequest r
  | .frame bs => decodeFrame p bs
  | .response bs => decodeResponse bs

/-- The optional `mac` operand as a request carries it (R123). -/
def macOperand (mac : Option Bytes) : Operand :=
  match mac with
  | none => .absent
  | some m => .bytes m

/-- The `target_slot` operand as a request carries it: a u16, or the number above `0xFFFF` that no u16 holds (R61, R150). -/
def targetSlotOperand (t : Nat) : Operand := if t < 2 ^ 16 then .u16 (BitVec.ofNat 16 t) else .nat t

/-- The encoding of an instruction (R61, R66, R69). -/
def encode (p : Params) : Instr → Code
  | .crc16 b o l => .request ⟨0x01, [.bytes b, .nat o, .nat l]⟩
  | .frame c p1 p2 pl => .request ⟨0x10, [.u8 c, .u8 p1, .u16 p2, .bytes pl]⟩
  | .parse rx => .request ⟨0x11, [.bytes rx]⟩
  | .send c p1 p2 pl n => .request ⟨0x12, [.u8 c, .u8 p1, .u16 p2, .bytes pl, .nat n]⟩
  | .cmdRead z b o f => .request ⟨0x20, [.u8 z, .nat b, .nat o, .bool f]⟩
  | .cmdWrite z b o d m e => .request ⟨0x21, [.u8 z, .nat b, .nat o, .bytes d, macOperand m, .bool e]⟩
  | .cmdNonce m i => .request ⟨0x22, [.u8 m, .bytes i]⟩
  | .cmdGendig z s x => .request ⟨0x23, [.u8 z, .nat s, .bytes x]⟩
  | .cmdMac s c f => .request ⟨0x24, [.nat s, .bytes c, .u8 f]⟩
  | .cmdCheckmac s c r o f => .request ⟨0x25, [.nat s, .bytes c, .bytes r, .bytes o, .u8 f]⟩
  | .cmdLock d c k => .request ⟨0x26, [.bool d, .u16 c, .bool k]⟩
  | .sha256 m => .request ⟨0x30, [.bytes m]⟩
  | .derivekey r t s => .request ⟨0x31, [.bytes r, targetSlotOperand t, .bytes s]⟩
  | .noncemix n i m => .request ⟨0x32, [.bytes n, .bytes i, .u8 m]⟩
  | .sesskey k s sn cn => .request ⟨0x33, [.bytes k, .nat s, .bytes sn, .bytes cn]⟩
  | .xor32 a b => .request ⟨0x34, [.bytes a, .bytes b]⟩
  | .wrmac k s sn pt => .request ⟨0x35, [.bytes k, .nat s, .bytes sn, .bytes pt]⟩
  | .macresp k c o => .request ⟨0x36, [.bytes k, .bytes c, .bytes o]⟩
  | .validate sn dr ci rk s m => .request ⟨0x37, [.bytes sn, .bytes dr, .bytes ci, .bytes rk, .nat s, .u8 m]⟩
  | .wireRead f => .frame (f.bytes p.opcRead)
  | .wireWrite f => .frame (f.bytes p.opcWrite)
  | .wireNonce f => .frame (f.bytes p.opcNonce)
  | .wireGendig f => .frame (f.bytes p.opcGendig)
  | .wireMac f => .frame (f.bytes p.opcMac)
  | .wireCheckmac f => .frame (f.bytes p.opcCheckmac)
  | .wireLock f => .frame (f.bytes p.opcLock)
  | .response len rest => .response (len :: rest)

/-- The operands of zeros of an operation: each of the length its rule states, every bit 0, except that
`expected_response_len` is the 38 of R6 and a response operand is 38 zero bytes, since 0 is in the domain of neither
(log 8). -/
def zeroOperands : OpName → List Operand
  | .crc16 => [.bytes [], .nat 0, .nat 0]
  | .frame => [.u8 0, .u8 0, .u16 0, .bytes []]
  | .parse => [.bytes (zeros respReadLen)]
  | .send => [.u8 0, .u8 0, .u16 0, .bytes [], .nat respReadLen]
  | .cmdRead => [.u8 0, .nat 0, .nat 0, .bool false]
  | .cmdWrite => [.u8 0, .nat 0, .nat 0, .bytes (zeros 4), .absent, .bool false]
  | .cmdNonce => [.u8 0, .bytes []]
  | .cmdGendig => [.u8 0, .nat 0, .bytes []]
  | .cmdMac => [.nat 0, .bytes [], .u8 0]
  | .cmdCheckmac => [.nat 0, .bytes (zeros 32), .bytes (zeros 32), .bytes (zeros 13), .u8 0]
  | .cmdLock => [.bool false, .u16 0, .bool false]
  | .sha256 => [.bytes []]
  | .derivekey => [.bytes (zeros 32), .u16 0, .bytes (zeros 9)]
  | .noncemix => [.bytes (zeros 32), .bytes [], .u8 0]
  | .sesskey => [.bytes (zeros 32), .nat 0, .bytes (zeros 9), .bytes (zeros 32)]
  | .xor32 => [.bytes (zeros 32), .bytes (zeros 32)]
  | .wrmac => [.bytes (zeros 32), .nat 0, .bytes (zeros 9), .bytes (zeros 32)]
  | .macresp => [.bytes (zeros 32), .bytes (zeros 32), .bytes (zeros 13)]
  | .validate => [.bytes (zeros 9), .bytes (zeros 32), .bytes [], .bytes (zeros 32), .nat 0, .u8 0]

/-- The low `n` bytes of a number, least significant first. -/
def lowBytes : Nat → Nat → Bytes
  | 0, _ => []
  | n + 1, w => BitVec.ofNat 8 w :: lowBytes n (w / 256)

/-- What the hardware holds where a word of the opcode table stands (log 8). A word of up to 8 bits is the `opsel` of a
request, its operands zeros, where R61 assigns it, else the length byte of a response in a read of 38 bytes; a longer
word is the first bytes of a command frame, byte 0 in bits 7..0, with zeros after it. -/
def tableCode (nbits w : Nat) : Code :=
  if nbits ≤ 8 then
    match opNameOf (BitVec.ofNat 8 w) with
    | some op => .request ⟨BitVec.ofNat 8 w, zeroOperands op⟩
    | none => .response (BitVec.ofNat 8 w :: zeros (respReadLen - 1))
  else .frame (lowBytes ((nbits + 7) / 8) w ++ zeros (8 - (nbits + 7) / 8))

/-- The instruction the decoder reads from a word numbered as the opcode table numbers it (R85). -/
def decodeTableWord (nbits w : Nat) : Option Instr :=
  match decode resetParams (tableCode nbits w) with
  | .ok i => some i
  | .error _ => none

end Sys2Proof
end

