-- ==== Sys2Proof/Machine/State.lean ====
section
/-! DEFINITION. The state of the machine as plain data: parameters (R7), BUSY (R24), the working registers of the three
units (R21, R26 to R28), the pending inputs, and the record of what left the engine (responses, R24; transport events,
R40). The reasons a step could stop. The state after reset (R30, R190). -/

namespace Sys2Proof.Machine

/-- Why the machine could stop with a fault. There is no constructor: "Every operation ends in exactly one outcome,
delivered in the response record" (R170), and the engine has no traps (R178). Nobody raises one (log 21). -/
inductive Fault where
  deriving DecidableEq, Repr

/-- Why an instruction could have no meaning. -/
inductive Refusal where
  /-- An instruction not modelled yet, by its mnemonic; raised by an arm of `exec` only, and no arm raises it. Safe: the
  model stops where the hardware goes on. -/
  | notModelled (mnemonic : String)
  deriving DecidableEq, Repr

/-- The outcome kinds (R171). -/
inductive Kind where
  | ok
  | noResponse
  | crcMismatch
  | chipError
  | badOperand
  | badOpsel
  | busy
  deriving DecidableEq, Repr

/-- The result of an operation: a byte string or a u16 (R24). -/
inductive Result where
  | bytes (b : Bytes)
  | u16 (v : Half)
  deriving DecidableEq, Repr

/-- The response record `{kind, code, result}` (R24, R60, R170); `result` is absent when the kind is not `Ok`. -/
structure Response where
  kind : Kind
  code : Byte
  result : Option Result
  deriving DecidableEq, Repr

/-- An event of the transport stream S2 with its answer (R40, R44): `TxWrite(frame)` answered `Ack` (true) or `Nack`;
`TxRead(n)` answered `Nack` (none) or bytes. -/
inductive TxEvent where
  | write (frame : Bytes) (ack : Bool)
  | read (n : Nat) (answer : Option Bytes)
  deriving DecidableEq, Repr

/-- What can arrive while an operation is running (R175, R191). -/
inductive Arrival where
  /-- a request presented while `BUSY = 1` (R175) -/
  | request (r : Request)
  /-- a reset during the operation (R191) -/
  | reset
  deriving DecidableEq, Repr

/-- An input from outside the engine, in the order of arrival (log 1). -/
inductive Input where
  /-- a request of a host that waited for the response before it (D5) -/
  | request (r : Request)
  /-- a reset of the idle engine (R190) -/
  | reset
  /-- the host creates a session, which fixes `POLL_MAX` (R24, R192) -/
  | openSession (pollMax : Nat)
  /-- something that arrives while the operation before it is still running (R175, R191) -/
  | during (a : Arrival)
  /-- the transport's answer to a `TxWrite`: `Ack` (true) or `Nack` (R44) -/
  | writeAnswer (ack : Bool)
  /-- the transport's answer to a `TxRead`: `Nack` (none), or the first bytes it returns (R44, D12) -/
  | readAnswer (answer : Option Bytes)
  deriving DecidableEq, Repr

/-- Whether an operation is in flight, and at which inner point of R104 it stands. -/
inductive Stage where
  /-- no operation in flight (R30, R190) -/
  | idle
  /-- an operation of the codec is in flight and its frame stands in `TX`, not yet written (R104) -/
  | framed
  /-- a `TxRead` returned bytes, they stand in `RX` and are not yet validated (R104) -/
  | received
  deriving DecidableEq, Repr

/-- The working registers of the CRC unit (R21, R26). -/
structure CrcUnit where
  /-- `CRC`, the accumulator -/
  crc : Half
  /-- the byte index `i` of R93 -/
  index : Nat
  /-- the bit counter `k` of R91 -/
  bit : Nat
  deriving DecidableEq, Repr

/-- The working registers of the hash unit (R21, R27). -/
structure HashUnit where
  /-- `MSG` -/
  msg : Bytes
  /-- `H[0..7]` -/
  h : Eight
  /-- `W[0..63]` -/
  w : List Word
  /-- `a..h` -/
  v : Eight
  /-- the block index `j` of R140 -/
  block : Nat
  /-- the round `t` of R143 -/
  round : Nat
  /-- `DIGEST` -/
  digest : Bytes
  deriving DecidableEq, Repr

/-- The working registers of the codec unit (R28, R104, R121). -/
structure Codec where
  /-- `TX`, the frame -/
  tx : Bytes
  /-- `RX`, the bytes of the successful read -/
  rx : Bytes
  /-- `ATTEMPT` -/
  attempt : Nat
  /-- `expected_response_len` of the operation in flight (R104) -/
  respLen : Nat
  /-- the data length the command in flight expects (R121); none for a bare SEND -/
  dataLen : Option Nat
  deriving DecidableEq, Repr

/-- The state of the machine. -/
structure State where
  /-- the parameters, `POLL_MAX` among them (R7, R24) -/
  params : Params
  /-- `BUSY` (R24) -/
  busy : Bool
  /-- the operation in flight (R30, R104) -/
  stage : Stage
  /-- the CRC unit (R26) -/
  crcUnit : CrcUnit
  /-- the hash unit (R27) -/
  hashUnit : HashUnit
  /-- the codec unit (R28) -/
  codec : Codec
  /-- inputs not yet taken, oldest first (log 1) -/
  inputs : List Input
  /-- responses delivered to the host, oldest first (R24; log 17) -/
  delivered : List Response
  /-- the transport stream S2, oldest first (R40; log 17) -/
  wire : List TxEvent
  /-- the model's own: how many transport accesses have been made, the index of the oracle's free values (log 2) -/
  freeCount : Nat
  deriving DecidableEq, Repr

/-- Eight zero words. -/
def zeroEight : Eight := { x0 := 0, x1 := 0, x2 := 0, x3 := 0, x4 := 0, x5 := 0, x6 := 0, x7 := 0 }

/-- The CRC unit after reset: unspecified by R30, the model's choice (log 5). -/
def resetCrcUnit : CrcUnit := { crc := 0x0000, index := 0, bit := 0 }

/-- The hash unit after reset: unspecified by R30, the model's choice (log 5). -/
def resetHashUnit : HashUnit :=
  { msg := [], h := zeroEight, w := List.replicate 64 0, v := zeroEight, block := 0, round := 0, digest := zeros 32 }

/-- The codec unit after reset: unspecified by R30, the model's choice (log 5). -/
def resetCodec : Codec := { tx := [], rx := [], attempt := 0, respLen := 38, dataLen := none }

/-- The machine right after reset (R30, R190): idle, `BUSY = 0`, no operation in flight, no response pending. -/
def State.reset : State :=
  { params := resetParams
    busy := false
    stage := .idle
    crcUnit := resetCrcUnit
    hashUnit := resetHashUnit
    codec := resetCodec
    inputs := []
    delivered := []
    wire := []
    freeCount := 0 }

end Sys2Proof.Machine
end

