-- ==== Sys2Proof/Machine/Ops.lean ====
section
/-! DEFINITION. The shared operations of the machine: responses (R170 to R175), arrivals while an operation runs (R175,
R191), the transport port (R44), the CRC and hash units as registers (R26, R27), the sequencer of SEND from the frame on
(R104) and the delivery of a response (R24). What other hardware calls taking an exception is here `deliver`: the outcome
is data in the response and the engine is idle again (R170, R178). -/

namespace Sys2Proof.Machine

/-- `Ok` with a byte string (R170). -/
def respOk (b : Bytes) : Response := { kind := .ok, code := 0x00, result := some (.bytes b) }

/-- `Ok` with a u16 (R93, R170). -/
def respU16 (v : Half) : Response := { kind := .ok, code := 0x00, result := some (.u16 v) }

/-- `raise` of a kind whose code is 0 (R170, R171). -/
def respRaise (k : Kind) : Response := { kind := k, code := 0x00, result := none }

/-- `NoResponse` (R171). -/
def respNoResponse : Response := respRaise .noResponse

/-- `BadOperand` (R174). -/
def respBadOperand : Response := respRaise .badOperand

/-- `BadOpsel` (R62). -/
def respBadOpsel : Response := respRaise .badOpsel

/-- `Busy` (R175). -/
def respBusy : Response := respRaise .busy

/-- `CrcMismatch` with its sub-cause (R172). -/
def respCrcMismatch (subCause : Byte) : Response := { kind := .crcMismatch, code := subCause, result := none }

/-- `ChipError(code)` (R173). -/
def respChipError (code : Byte) : Response := { kind := .chipError, code := code, result := none }

/-- The numeric value of a kind (R171). -/
def kindValue : Kind → Nat
  | .ok => 0
  | .noResponse => 1
  | .crcMismatch => 2
  | .chipError => 3
  | .badOperand => 4
  | .badOpsel => 5
  | .busy => 6

/-- Whether the host may retry after an outcome of this kind (R171, R178). -/
def retryable : Kind → Bool
  | .noResponse => true
  | .crcMismatch => true
  | _ => false

/-- The response to a request the decoder refuses: `BadOpsel` for an unassigned `opsel`, else `BadOperand` (R62, R174). -/
def rejectResponse : Reject → Response
  | .badOpsel _ => respBadOpsel
  | _ => respBadOperand

/-- Reset of the engine: idle, `BUSY = 0`, no operation in flight, nothing delivered for one that was; the parameters
and everything outside the engine stay (R30, R190, R191). The working registers take the values of log 5. -/
def engineReset (s : State) : State :=
  { s with busy := false, stage := .idle, crcUnit := resetCrcUnit, hashUnit := resetHashUnit, codec := resetCodec }

/-- The host creates a session with this `POLL_MAX` (legal: at least 1); a value that is not legal opens none (R24, R192;
log 14). -/
def openSession (pollMax : Nat) (s : State) : State :=
  if 1 ≤ pollMax then engineReset { s with params := { s.params with pollMax := pollMax } } else s

/-- How many requests arrive while the operation runs, up to its next event (R175). -/
def busyCount : List Input → Nat
  | .during (.request _) :: rest => busyCount rest + 1
  | _ => 0

/-- Whether a reset arrives while the operation runs, before its next event (R191). -/
def resetDuring : List Input → Bool
  | .during (.request _) :: rest => resetDuring rest
  | .during .reset :: _ => true
  | _ => false

/-- The inputs after those that arrive while the operation runs, up to its next event. -/
def afterDuring : List Input → List Input
  | .during (.request _) :: rest => afterDuring rest
  | .during .reset :: rest => rest
  | inputs => inputs

/-- Each request that arrives while the operation runs is refused with `Busy`, with no other effect (R175). -/
def refuseArrivals (s : State) : State :=
  { s with
    inputs := afterDuring s.inputs
    delivered := s.delivered ++ List.replicate (busyCount s.inputs) respBusy }

/-- A point of an operation where arrivals land: requests are refused with `Busy`; a reset abandons the operation; else
it goes on (R175, R191; log 9). -/
def onArrivals (s : State) (goOn : State → State) : State :=
  if resetDuring s.inputs then engineReset (refuseArrivals s) else goOn (refuseArrivals s)

/-- The state once a response is delivered: it is with the host, `BUSY = 0`, no operation in flight (R24, R178). -/
def answered (r : Response) (s : State) : State :=
  { s with busy := false, stage := .idle, delivered := s.delivered ++ [r] }

/-- An operation ends with this response (R170). -/
def deliver (r : Response) (s : State) : State := onArrivals s (answered r)

/-- A request is accepted: `BUSY` is set (R24). -/
def accept (s : State) : State := { s with busy := true }

/-- A request presented while `BUSY = 1`: refused with `Busy`, no other effect (R175). -/
def refuseBusy (s : State) : State := { s with delivered := s.delivered ++ [respBusy] }

/-- The CRC unit after `crc16(bytes, offset, length)` (R26, R91, R93). -/
def crcAfter (bytes : Bytes) (offset length : Nat) : CrcUnit :=
  { crc := crc16 bytes offset length
    index := offset + length
    bit := if length = 0 then 0 else 8 }

/-- Run the CRC unit (R26, R93). -/
def runCrc (bytes : Bytes) (offset length : Nat) (s : State) : State :=
  { s with crcUnit := crcAfter bytes offset length }

/-- The hash unit after hashing `m`, `msg` being what `MSG` then holds (R27, R140, R143). -/
def hashAfter (msg m : Bytes) : HashUnit :=
  { msg := msg
    h := chain (pad m) (blockCount m.length)
    w := schedule (blockAt (pad m) (blockCount m.length - 1))
    v := blockVars (chain (pad m) (blockCount m.length - 1)) (blockAt (pad m) (blockCount m.length - 1))
    block := blockCount m.length
    round := 64
    digest := sha256 m }

/-- Hash an operand: `MSG` is not used (R27, R140; log 19). -/
def runHashOperand (m : Bytes) (s : State) : State := { s with hashUnit := hashAfter s.hashUnit.msg m }

/-- Assemble a message in `MSG` and hash it (R27, R150). -/
def runHash (m : Bytes) (s : State) : State := { s with hashUnit := hashAfter m m }

/-- Build a frame in `TX` (R28, R100); its CRC runs the CRC unit (R95). -/
def loadFrame (opcode param1 : Byte) (param2 : Half) (payload : Bytes) (s : State) : State :=
  { s with
    codec := { s.codec with tx := frameBytes opcode param1 param2 payload }
    crcUnit := crcAfter (frameHeader opcode param1 param2 payload.length ++ payload) 1 (5 + payload.length) }

/-- The answer of the transport to a `TxWrite` (R44): the next input says it, or it is free (log 2). -/
def writeAnswerOf (s : State) : Bool :=
  match s.inputs with
  | .writeAnswer ack :: _ => ack
  | _ => Config.freeAck s.freeCount

/-- The inputs after the answer to a `TxWrite`. -/
def dropWriteAnswer : List Input → List Input
  | .writeAnswer _ :: rest => rest
  | inputs => inputs

/-- `n` bytes that begin with the bytes given; the bytes not given are free (R44, D12; log 2). -/
def fillRead (n access : Nat) (bs : Bytes) : Bytes :=
  bs.take n ++ (List.range (n - bs.length)).map fun j => Config.freeByte access (bs.length + j)

/-- The answer of the transport to a `TxRead(n)`: `Nack` (none) or exactly `n` bytes (R44). -/
def readAnswerOf (n : Nat) (s : State) : Option Bytes :=
  match s.inputs with
  | .readAnswer none :: _ => none
  | .readAnswer (some bs) :: _ => some (fillRead n s.freeCount bs)
  | _ => if Config.freeReady s.freeCount then some (fillRead n s.freeCount []) else none

/-- The inputs after the answer to a `TxRead`. -/
def dropReadAnswer : List Input → List Input
  | .readAnswer _ :: rest => rest
  | inputs => inputs

/-- `TxWrite(TX)` (R44, R104). -/
def txWrite (s : State) : State :=
  { s with
    inputs := dropWriteAnswer s.inputs
    wire := s.wire ++ [.write s.codec.tx (writeAnswerOf s)]
    freeCount := s.freeCount + 1 }

/-- `ATTEMPT <- ATTEMPT + 1; TxRead(n)` (R44, R104). -/
def txRead (s : State) : State :=
  { s with
    codec := { s.codec with attempt := s.codec.attempt + 1 }
    inputs := dropReadAnswer s.inputs
    wire := s.wire ++ [.read s.codec.respLen (readAnswerOf s.codec.respLen s)]
    freeCount := s.freeCount + 1 }

/-- The bytes of the successful read stand in `RX` (R28, R104). -/
def receive (rx : Bytes) (s : State) : State := { s with stage := .received, codec := { s.codec with rx := rx } }

/-- The outcome of PARSE: length byte, then CRC, then error envelope (R102, R177). -/
def parseResponse (rx : Bytes) : Response :=
  match rx with
  | [] => respBadOperand
  | len :: _ =>
    if respLenValid len rx then
      if respCrcValid len rx then
        if isErrorEnvelope len rx then respChipError (rx.getD 1 0x00) else respOk (respData len rx)
      else respCrcMismatch 0
    else respCrcMismatch 1

/-- PARSE runs the CRC unit over `RX[0 .. L-2]` once the length byte is valid (R95, R102). -/
def parseCrc (rx : Bytes) (s : State) : State :=
  match rx with
  | [] => s
  | len :: _ => if respLenValid len rx then runCrc rx 0 (len.toNat - 2) s else s

/-- The check of the data length a command expects, after everything else (R121, R177). -/
def checkDataLen (expected : Option Nat) (r : Response) : Response :=
  match expected, r.result with
  | some n, some (.bytes d) => if d.length = n then r else respCrcMismatch 2
  | _, _ => r

/-- The end of a SEND or `CMD.*` whose response stands in `RX`: validate it, check its data length, deliver (R102, R104,
R120). -/
def finish (s : State) : State :=
  deliver (checkDataLen s.codec.dataLen (parseResponse s.codec.rx)) (parseCrc s.codec.rx s)

/-- The poll loop with `k` attempts left: `ATTEMPT = POLL_MAX` when none is (R104, R105). -/
def poll : Nat → State → State
  | 0, s => deliver respNoResponse s
  | k + 1, s =>
    onArrivals s fun s =>
      match readAnswerOf s.codec.respLen s with
      | none => poll k (txRead s)
      | some rx => finish (receive rx (txRead s))

/-- `ATTEMPT <- 0`, and `RX` is empty until a read succeeds (R28, R104). -/
def startAttempts (s : State) : State := { s with codec := { s.codec with attempt := 0, rx := [] } }

/-- SEND from the point where the frame stands in `TX`: write it once, then poll (R104). -/
def transmit (s : State) : State :=
  onArrivals (startAttempts s) fun s =>
    if writeAnswerOf s then poll s.params.pollMax (txWrite s) else deliver respNoResponse (txWrite s)

/-- The operation in flight: its frame in `TX`, how many bytes each read asks for, and the data length expected. -/
def stageFrame (opcode param1 : Byte) (param2 : Half) (payload : Bytes) (respLen : Nat) (dataLen : Option Nat)
    (s : State) : State :=
  let s := loadFrame opcode param1 param2 payload s
  { s with stage := .framed, codec := { s.codec with respLen := respLen, dataLen := dataLen } }

/-- SEND (R104), with the data length a command expects (R120, R121). -/
def sendFrame (opcode param1 : Byte) (param2 : Half) (payload : Bytes) (respLen : Nat) (dataLen : Option Nat)
    (s : State) : State :=
  if respLenOk respLen then
    if frameFits s.params payload then transmit (stageFrame opcode param1 param2 payload respLen dataLen s)
    else deliver respBadOperand s
  else deliver respBadOperand s

/-- A `CMD.*` operation once its own checks passed: SEND with 38, then the data length check (R120). -/
def sendCommand (opcode param1 : Byte) (param2 : Half) (payload : Bytes) (dataLen : Nat) (s : State) : State :=
  sendFrame opcode param1 param2 payload respReadLen (some dataLen) s

/-- Hash a message of a chain operation and return the digest (R150). -/
def answerHash (m : Bytes) (s : State) : State := deliver (respOk (sha256 m)) (runHash m s)

/-- A chain operation: refuse with `BadOperand` before hashing, or hash and return (R150). -/
def chainOperation (ok : Bool) (m : Bytes) (s : State) : State :=
  if ok then answerHash m s else deliver respBadOperand s

/-- The command frame `f` is put on the transport and the command goes on from there: poll with 38 bytes a read,
validate, and expect `dataLen` data bytes (R66, R104, R120, R121). -/
def runWire (opcode : Byte) (f : Frame) (dataLen : Nat) (s : State) : State :=
  transmit
    { s with
      stage := .framed
      codec := { s.codec with tx := f.bytes opcode, respLen := respReadLen, dataLen := some dataLen } }

end Sys2Proof.Machine
end

