-- ==== Sys2Proof/Machine/CodecUnit.lean ====
section
/-! DEFINITION. The operations of the codec unit: FRAME (R100), PARSE (R102), SEND (R104). -/

namespace Sys2Proof.Machine

/-- FRAME (R100): the length check, then the frame; no transport access. -/
def execFrame (opcode param1 : Byte) (param2 : Half) (payload : Bytes) (s : State) :
    Host.Outcome State Fault Refusal :=
  .next (if frameFits s.params payload then
      deliver (respOk (frameBytes opcode param1 param2 payload)) (loadFrame opcode param1 param2 payload s)
    else deliver respBadOperand s)

/-- PARSE (R102): `RX <- rx`, then the checks; no transport access. -/
def execParse (rx : Bytes) (s : State) : Host.Outcome State Fault Refusal :=
  .next (deliver (parseResponse rx) (parseCrc rx { s with codec := { s.codec with rx := rx } }))

/-- SEND (R104). -/
def execSend (opcode param1 : Byte) (param2 : Half) (payload : Bytes) (respLen : Nat) (s : State) :
    Host.Outcome State Fault Refusal :=
  .next (sendFrame opcode param1 param2 payload respLen none s)

end Sys2Proof.Machine
end

