-- ==== Sys2Proof/Machine/Commands.lean ====
section
/-! DEFINITION. The chip command set: "check the operands; compute opcode, param1, param2, payload; SEND with 38; check
the data length" (R120 to R128). -/

namespace Sys2Proof.Machine

/-- CMD.READ (R122). -/
def execCmdRead (zone : Byte) (block offset : Nat) (fourByte : Bool) (s : State) : Host.Outcome State Fault Refusal :=
  .next (match zoneOfCode s.params zone with
    | none => deliver respBadOperand s
    | some z =>
      if locationFits block offset then
        sendCommand s.params.opcRead (readParam1 s.params z fourByte) (locationParam block offset) [] (readLen fourByte) s
      else deliver respBadOperand s)

/-- CMD.WRITE (R123). -/
def execCmdWrite (zone : Byte) (block offset : Nat) (data : Bytes) (mac : Option Bytes) (encrypted : Bool) (s : State) :
    Host.Outcome State Fault Refusal :=
  .next (match zoneOfCode s.params zone with
    | none => deliver respBadOperand s
    | some z =>
      if writeDataOk data && writeMacOk mac && locationFits block offset then
        sendCommand s.params.opcWrite (writeParam1 s.params z data encrypted) (locationParam block offset)
          (writePayload data mac) 1 s
      else deliver respBadOperand s)

/-- CMD.NONCE (R124). -/
def execCmdNonce (mode : Byte) (input : Bytes) (s : State) : Host.Outcome State Fault Refusal :=
  .next (if input.length ≤ nonceInputMax mode then sendCommand s.params.opcNonce mode 0x0000 input (nonceLen mode) s
    else deliver respBadOperand s)

/-- CMD.GENDIG (R125). -/
def execCmdGendig (zone : Byte) (slot : Nat) (extra : Bytes) (s : State) : Host.Outcome State Fault Refusal :=
  .next (match zoneOfCode s.params zone with
    | none => deliver respBadOperand s
    | some z =>
      if slotOk slot then sendCommand s.params.opcGendig (zoneCode s.params z) (slotParam slot) extra 1 s
      else deliver respBadOperand s)

/-- CMD.MAC (R126). -/
def execCmdMac (slot : Nat) (challenge : Bytes) (flags : Byte) (s : State) : Host.Outcome State Fault Refusal :=
  .next (if slotOk slot && macChallengeOk challenge then
      sendCommand s.params.opcMac flags (slotParam slot) challenge 32 s
    else deliver respBadOperand s)

/-- CMD.CHECKMAC (R127). -/
def execCmdCheckmac (slot : Nat) (challenge response otherData : Bytes) (flags : Byte) (s : State) :
    Host.Outcome State Fault Refusal :=
  .next (if slotOk slot && lenOk challenge 32 && lenOk response 32 && lenOk otherData otherDataLen then
      sendCommand s.params.opcCheckmac flags (slotParam slot) (challenge ++ response ++ otherData) 1 s
    else deliver respBadOperand s)

/-- CMD.LOCK (R128). -/
def execCmdLock (isData : Bool) (checksum : Half) (skipChecksum : Bool) (s : State) :
    Host.Outcome State Fault Refusal :=
  .next (sendCommand s.params.opcLock (lockParam1 s.params isData skipChecksum) checksum [] 1 s)

end Sys2Proof.Machine
end

