-- ==== Sys2Proof/Machine/CrcUnit.lean ====
section
/-! DEFINITION. The operation of the CRC unit (R93). -/

namespace Sys2Proof.Machine

/-- CRC16 (R93): the range check, then the CRC of the range. -/
def execCrc16 (bytes : Bytes) (offset length : Nat) (s : State) : Host.Outcome State Fault Refusal :=
  .next (if rangeOk bytes offset length then
      deliver (respU16 (crc16 bytes offset length)) (runCrc bytes offset length s)
    else deliver respBadOperand s)

end Sys2Proof.Machine
end

