-- ==== Sys2Proof/Machine/HashOps.lean ====
section
/-! DEFINITION. The operations of the hash unit: SHA256 (R140) and the key and MAC chains (R150 to R159). -/

namespace Sys2Proof.Machine

/-- SHA256 (R140). -/
def execSha256 (msg : Bytes) (s : State) : Host.Outcome State Fault Refusal :=
  .next (if msgOk msg then deliver (respOk (sha256 msg)) (runHashOperand msg s) else deliver respBadOperand s)

/-- DERIVEKEY (R151). -/
def execDerivekey (rootKey : Bytes) (targetSlot : Nat) (serial : Bytes) (s : State) :
    Host.Outcome State Fault Refusal :=
  .next (chainOperation (lenOk rootKey keyLen && decide (targetSlot < 2 ^ 16) && lenOk serial serialLen)
    (derivekeyMsg rootKey targetSlot serial) s)

/-- NONCEMIX (R152): verbatim in pass-through, else hashed. -/
def execNoncemix (nonceSeed input : Bytes) (mode : Byte) (s : State) : Host.Outcome State Fault Refusal :=
  .next (if noncemixOk nonceSeed input mode then
      if mode = noncePassthrough then deliver (respOk input) s else answerHash (noncemixMsg nonceSeed input mode) s
    else deliver respBadOperand s)

/-- SESSKEY (R153). -/
def execSesskey (slotKey : Bytes) (slot : Nat) (serial chipNonce : Bytes) (s : State) :
    Host.Outcome State Fault Refusal :=
  .next (chainOperation (lenOk slotKey keyLen && slotOk slot && lenOk serial serialLen && lenOk chipNonce keyLen)
    (sesskeyMsg slotKey slot serial chipNonce) s)

/-- XOR32 (R154). -/
def execXor32 (a b : Bytes) (s : State) : Host.Outcome State Fault Refusal :=
  .next (if lenOk a 32 && lenOk b 32 then deliver (respOk (xorBytes a b)) s else deliver respBadOperand s)

/-- WRMAC (R155). -/
def execWrmac (sessionKey : Bytes) (slot : Nat) (serial plaintext : Bytes) (s : State) :
    Host.Outcome State Fault Refusal :=
  .next (chainOperation (lenOk sessionKey keyLen && slotOk slot && lenOk serial serialLen && lenOk plaintext keyLen)
    (wrmacMsg sessionKey slot serial plaintext) s)

/-- MACRESP (R157, R158). -/
def execMacresp (key challenge otherData : Bytes) (s : State) : Host.Outcome State Fault Refusal :=
  .next (chainOperation (lenOk key keyLen && lenOk challenge keyLen && lenOk otherData otherDataLen)
    (macrespMsg s.params.odLayout key challenge otherData) s)

/-- The chip nonce of a validated seed, input and mode (R152, R159). -/
def chipNonceOf (nonceSeed input : Bytes) (mode : Byte) : Bytes :=
  if mode = noncePassthrough then input else sha256 (noncemixMsg nonceSeed input mode)

/-- The second hash of VALIDATE: the nonce mix, which hashes nothing in pass-through (R152, R159). -/
def runNonceMix (nonceSeed input : Bytes) (mode : Byte) (s : State) : State :=
  if mode = noncePassthrough then s else runHash (noncemixMsg nonceSeed input mode) s

/-- VALIDATE (R159): DERIVEKEY, NONCEMIX, MACRESP, three hashes in sequence (R27, C11). The checks stand before every
effect (R174; log 23). -/
def execValidate (serial deviceRandom challengeInput rootKey : Bytes) (slot : Nat) (mode : Byte) (s : State) :
    Host.Outcome State Fault Refusal :=
  .next (if validateOk serial deviceRandom challengeInput rootKey slot mode then
      answerHash
        (macrespMsg s.params.odLayout (sha256 (derivekeyMsg rootKey slot serial))
          (chipNonceOf deviceRandom challengeInput mode) (validatorOd slot))
        (runNonceMix deviceRandom challengeInput mode (runHash (derivekeyMsg rootKey slot serial) s))
    else deliver respBadOperand s)

end Sys2Proof.Machine
end

