-- ==== Sys2Proof/Machine/WireOps.lean ====
section
/-! DEFINITION. The frames on the transport (the WIRE rows, R66, R85) and the response taken off it (the RESP row, R69).
They are not requests: a frame runs when it stands in `TX` of a `CMD.*` in flight, a response when it stands in `RX` of a
SEND or `CMD.*` in flight (R104, R120; log 7). The data length a frame's command expects is told by the frame (R121). -/

namespace Sys2Proof.Machine

/-- WIRE.READ (R66, R122). -/
def execWireRead (f : Frame) (s : State) : Host.Outcome State Fault Refusal :=
  .next (runWire s.params.opcRead f (readLen (!sizeBitSet f.param1)) s)

/-- WIRE.WRITE (R66, R123). -/
def execWireWrite (f : Frame) (s : State) : Host.Outcome State Fault Refusal :=
  .next (runWire s.params.opcWrite f 1 s)

/-- WIRE.NONCE (R66, R124). -/
def execWireNonce (f : Frame) (s : State) : Host.Outcome State Fault Refusal :=
  .next (runWire s.params.opcNonce f (nonceLen f.param1) s)

/-- WIRE.GENDIG (R66, R125). -/
def execWireGendig (f : Frame) (s : State) : Host.Outcome State Fault Refusal :=
  .next (runWire s.params.opcGendig f 1 s)

/-- WIRE.MAC (R66, R126). -/
def execWireMac (f : Frame) (s : State) : Host.Outcome State Fault Refusal :=
  .next (runWire s.params.opcMac f 32 s)

/-- WIRE.CHECKMAC (R66, R127). -/
def execWireCheckmac (f : Frame) (s : State) : Host.Outcome State Fault Refusal :=
  .next (runWire s.params.opcCheckmac f 1 s)

/-- WIRE.LOCK (R66, R128). -/
def execWireLock (f : Frame) (s : State) : Host.Outcome State Fault Refusal :=
  .next (runWire s.params.opcLock f 1 s)

/-- RESPONSE (R69, R102): the response stands in `RX`; the operation in flight ends with its outcome. -/
def execResponse (len : Byte) (rest : Bytes) (s : State) : Host.Outcome State Fault Refusal :=
  .next (finish { s with codec := { s.codec with rx := len :: rest } })

end Sys2Proof.Machine
end

