-- ==== Sys2Proof/Machine/Dispatch.lean ====
section
/-! DEFINITION. The dispatch: one arm per constructor of `Instr`. -/

namespace Sys2Proof.Machine

/-- The meaning of an instruction. -/
def exec (i : Instr) (s : State) : Host.Outcome State Fault Refusal :=
  match i with
  | .crc16 bytes offset length => Sys2Proof.Machine.execCrc16 bytes offset length s
  | .frame opcode param1 param2 payload => Sys2Proof.Machine.execFrame opcode param1 param2 payload s
  | .parse rx => Sys2Proof.Machine.execParse rx s
  | .send opcode param1 param2 payload respLen => Sys2Proof.Machine.execSend opcode param1 param2 payload respLen s
  | .cmdRead zone block offset fourByte => Sys2Proof.Machine.execCmdRead zone block offset fourByte s
  | .cmdWrite zone block offset data mac encrypted => Sys2Proof.Machine.execCmdWrite zone block offset data mac encrypted s
  | .cmdNonce mode input => Sys2Proof.Machine.execCmdNonce mode input s
  | .cmdGendig zone slot extra => Sys2Proof.Machine.execCmdGendig zone slot extra s
  | .cmdMac slot challenge flags => Sys2Proof.Machine.execCmdMac slot challenge flags s
  | .cmdCheckmac slot challenge response otherData flags => Sys2Proof.Machine.execCmdCheckmac slot challenge response otherData flags s
  | .cmdLock isData checksum skipChecksum => Sys2Proof.Machine.execCmdLock isData checksum skipChecksum s
  | .sha256 msg => Sys2Proof.Machine.execSha256 msg s
  | .derivekey rootKey targetSlot serial => Sys2Proof.Machine.execDerivekey rootKey targetSlot serial s
  | .noncemix nonceSeed input mode => Sys2Proof.Machine.execNoncemix nonceSeed input mode s
  | .sesskey slotKey slot serial chipNonce => Sys2Proof.Machine.execSesskey slotKey slot serial chipNonce s
  | .xor32 a b => Sys2Proof.Machine.execXor32 a b s
  | .wrmac sessionKey slot serial plaintext => Sys2Proof.Machine.execWrmac sessionKey slot serial plaintext s
  | .macresp key challenge otherData => Sys2Proof.Machine.execMacresp key challenge otherData s
  | .validate serial deviceRandom challengeInput rootKey slot mode => Sys2Proof.Machine.execValidate serial deviceRandom challengeInput rootKey slot mode s
  | .wireRead f => Sys2Proof.Machine.execWireRead f s
  | .wireWrite f => Sys2Proof.Machine.execWireWrite f s
  | .wireNonce f => Sys2Proof.Machine.execWireNonce f s
  | .wireGendig f => Sys2Proof.Machine.execWireGendig f s
  | .wireMac f => Sys2Proof.Machine.execWireMac f s
  | .wireCheckmac f => Sys2Proof.Machine.execWireCheckmac f s
  | .wireLock f => Sys2Proof.Machine.execWireLock f s
  | .response len rest => Sys2Proof.Machine.execResponse len rest s

end Sys2Proof.Machine
end

