-- ==== Sys2Proof/Machine/Fetch.lean ====
section
/-! DEFINITION. What the machine runs next. There is no program counter and no fetch from memory (R21): the idle engine
takes its next input; an engine with an operation in flight goes on with the frame in `TX` or the response in `RX`
(R104). -/

namespace Sys2Proof.Machine

/-- What a step does: run an instruction in a state, or end in a state without one. -/
inductive Fetched where
  | run (i : Instr) (s : State)
  | done (s : State)
  deriving DecidableEq, Repr

/-- A request is presented: `Busy` while `BUSY = 1`, else it is accepted and decoded; an unassigned `opsel` or ill-typed
operands end it at once (R24, R62, R174, R175, R177). -/
def presentRequest (r : Request) (s : State) : Fetched :=
  if s.busy then .done (refuseBusy s)
  else
    match decodeRequest r with
    | .ok i => .run i (accept s)
    | .error e => .done (deliver (rejectResponse e) (accept s))

/-- The idle engine takes an input. Nothing arrives "during" an operation when there is none, so such an arrival is an
ordinary one; a transport answer that no access asked for is not heard, "the chip speaks only when read" (R176;
log 18). -/
def takeInput (input : Input) (s : State) : Fetched :=
  match input with
  | .request r => presentRequest r s
  | .during (.request r) => presentRequest r s
  | .reset => .done (engineReset s)
  | .during .reset => .done (engineReset s)
  | .openSession n => .done (openSession n s)
  | .writeAnswer _ => .done s
  | .readAnswer _ => .done s

/-- The frame in `TX` goes on the transport: that of a `CMD.*` in flight as the command it is (R85, R120), that of a bare
SEND, whatever its opcode, as SEND does it (R82, R104). -/
def fetchFrame (s : State) : Fetched :=
  match s.codec.dataLen with
  | none => .done (transmit s)
  | some _ =>
    match decodeFrame s.params s.codec.tx with
    | .ok i => .run i s
    | .error _ => .done (transmit s)

/-- The response in `RX` is validated (R69, R102). -/
def fetchResponse (s : State) : Fetched :=
  match decodeResponse s.codec.rx with
  | .ok i => .run i s
  | .error _ => .done (finish s)

/-- What the machine runs next. -/
def fetch (s : State) : Fetched :=
  match s.stage with
  | .idle =>
    match s.inputs with
    | [] => .done s
    | input :: rest => takeInput input { s with inputs := rest }
  | .framed => fetchFrame s
  | .received => fetchResponse s

/-- The state in which the code stands where the machine takes what it runs next: a request at the head of the inputs of
an idle engine, a frame in `TX` of a command in flight, a response in `RX` of an operation in flight (log 8). -/
def placeCode (c : Code) (s : State) : State :=
  match c with
  | .request r => { s with busy := false, stage := .idle, inputs := .request r :: s.inputs }
  | .frame bs =>
    { s with busy := true, stage := .framed, codec := { s.codec with tx := bs, dataLen := some 1 } }
  | .response bs => { s with busy := true, stage := .received, codec := { s.codec with rx := bs } }

end Sys2Proof.Machine
end

