-- ==== Sys2Proof/Machine/HostSequences.lean ====
section
/-! DEFINITION. The pseudo-operations ENCREAD, ENCWRITE, CHECKKEY and AUTH (R84, R161 to R164): "not operations of the
engine" but lists of requests a host issues in order. Each list is given the results its later lines use. The lists are built for
all operands, those the rules do not speak of among them (log 28). -/

namespace Sys2Proof.Machine

/-- The session key of lines 1 to 4 of R161: `r` is the result of the Nonce command. -/
def sequenceKey (k : Nat) (keyK serial : Bytes) (mode : Byte) (input r : Bytes) : Bytes :=
  let seed := if mode = noncePassthrough then zeros 32 else r
  sha256 (sesskeyMsg keyK k serial (chipNonceOf seed input mode))

/-- Lines 1 to 4 of R161 and R162. -/
def sessionLines (p : Params) (k : Nat) (keyK serial : Bytes) (mode : Byte) (input r : Bytes) : List Instr :=
  let seed := if mode = noncePassthrough then zeros 32 else r
  [.cmdNonce mode input, .noncemix seed input mode, .cmdGendig p.zoneData k [],
   .sesskey keyK k serial (chipNonceOf seed input mode)]

/-- ENCREAD (R161): `r` is the result of line 1, `ct` that of line 5. -/
def encread (p : Params) (s k : Nat) (keyK serial : Bytes) (mode : Byte) (input r ct : Bytes) : List Instr :=
  sessionLines p k keyK serial mode input r ++
    [.cmdRead p.zoneData s 0 false, .xor32 ct (sequenceKey k keyK serial mode input r)]

/-- ENCWRITE (R162): `r` is the result of line 1. -/
def encwrite (p : Params) (s k : Nat) (keyK serial : Bytes) (mode : Byte) (input pt : Bytes) (enc : Bool) (r : Bytes) :
    List Instr :=
  let sk := sequenceKey k keyK serial mode input r
  sessionLines p k keyK serial mode input r ++
    [.xor32 pt sk, .wrmac sk s serial pt,
     .cmdWrite p.zoneData s 0 (xorBytes pt sk) (some (sha256 (wrmacMsg sk s serial pt))) enc]

/-- CHECKKEY (R163). The rule has `flags = 0x00` from general knowledge; here they are the host's (log 28). -/
def checkkey (p : Params) (s : Nat) (key od : Bytes) (flags : Byte) : List Instr :=
  [.macresp key (zeros 32) od,
   .cmdCheckmac s (zeros 32) (sha256 (macrespMsg p.odLayout key (zeros 32) od)) od flags]

/-- The device side of AUTH (R164): an empty challenge and use-register-end. The rule gives the lines for a mode other than
0x03 and an input of 20 bytes; that they are the same for every mode and length is the model's choice (log 28). -/
def authDevice (p : Params) (slot : Nat) (mode : Byte) (input : Bytes) : List Instr :=
  [.cmdNonce mode input, .cmdMac slot [] p.macFlagRegEnd]

/-- The server side of AUTH (R164): `seed` is the result of line 1, or any 32 bytes in mode 0x03, where line 1 gives none
(log 28). -/
def authServer (serial seed input rootKey : Bytes) (slot : Nat) (mode : Byte) : Instr :=
  .validate serial seed input rootKey slot mode

/-- The host's decision of AUTH: "equality is the sole authentication decision" (R159, R164). -/
def authenticated (response expected : Bytes) : Bool := decide (response = expected)

end Sys2Proof.Machine
end

