-- ==== Sys2Proof/Machine/HostObligations.lean ====
section
/-! DEFINITION. The errors and the obligations of a host (R163, R186, R191, R195 to R202). The engine enforces none of them
(log 22). A run is the list of exchanges of all hosts with the engine, in order. `HostView` is what must be kept in mind
of a run so far, `HostView.follow` keeps it up to date, and each obligation says whether the next exchange is allowed. -/

namespace Sys2Proof.Machine

/-- Errors of the surrounding software "that the engine never raises" (R186). -/
inductive HostError where
  /-- the computed lock checksum is not that of the intended image: abort before the Lock (R186, R199) -/
  | checksumPrecondition
  /-- the host's reading of a `ChipError` from CMD.CHECKMAC in CHECKKEY (R163, R186) -/
  | keyVerificationFailed (slot : Nat)
  deriving DecidableEq, Repr

/-- The access policy of a slot (R49). Its bit format is not given; the host knows what it provisioned. -/
structure SlotPolicy where
  /-- "blocks plaintext read" -/
  isSecret : Bool
  /-- "which slot's key authorizes an encrypted write"; that a slot may name none is the model's choice (log 33) -/
  writeKeySlot : Option Nat
  /-- "which slot's key authorizes an encrypted read" -/
  readKeySlot : Option Nat
  /-- "never read or used to derive further keys" -/
  checkOnly : Bool
  deriving DecidableEq, Repr

/-- Where the chip shows a lock in its Config zone. The spec gives no layout of that zone (R48), so the place is an input
of these definitions, and that it is one byte is the model's choice (log 22). -/
structure LockPlace where
  /-- the byte address in the Config zone (R43) -/
  addr : Nat
  /-- what the byte reads as while the lock is open -/
  unlocked : Byte
  deriving DecidableEq, Repr

/-- What the hosts know of the chip before a run: the parameters, the policy of each slot (R49), the images the zones are
to have when they are locked (R96, R199): 88 bytes for Config, 576 for the keys and the OTP blocks, and where the locks
show. -/
structure HostPlan where
  params : Params
  policies : List SlotPolicy
  configImage : Bytes
  dataImage : Bytes
  configLock : LockPlace
  dataLock : LockPlace
  deriving DecidableEq, Repr

/-- The intended image of the zone a Lock is for. -/
def HostPlan.image (plan : HostPlan) (isData : Bool) : Bytes := if isData then plan.dataImage else plan.configImage

/-- Where the lock of the zone shows. -/
def HostPlan.lockPlace (plan : HostPlan) (isData : Bool) : LockPlace := if isData then plan.dataLock else plan.configLock

/-- One request with what came of it, the host that issued it, and the run of a sequence of R161 to R164 it is a line of
(R83, R183, R196). -/
structure Exchange where
  host : Nat
  sequence : Option Nat
  instr : Instr
  /-- the response, or none where a reset abandoned the operation: "no response is delivered for it" (R191) -/
  response : Option Response
  deriving DecidableEq, Repr

/-! ## CHECKKEY and the lock checksum -/

/-- How a host reads the response to line 2 of CHECKKEY (R163). -/
inductive KeyVerdict where
  /-- `Ok([0x00])`: the slot holds the key -/
  | holds
  /-- `ChipError`: no match or a policy refusal, reported per slot -/
  | failed (e : HostError)
  /-- any other outcome says nothing of the key (R171, R178) -/
  | unknown
  deriving DecidableEq, Repr

/-- The host's reading of the response to line 2 of CHECKKEY for this slot (R127, R163, R186). -/
def checkkeyVerdict (slot : Nat) (r : Response) : KeyVerdict :=
  if r = respOk [0x00] then .holds
  else if r.kind = .chipError then .failed (.keyVerificationFailed slot)
  else .unknown

/-- The errors of a whole check, "reported per-slot ... without halting remaining checks" (R186). -/
def keyCheckErrors (checks : List (Nat × Response)) : List HostError :=
  checks.filterMap fun (slot, r) =>
    match checkkeyVerdict slot r with
    | .failed e => some e
    | _ => none

/-- The key to check in a slot: for slot 0 it is `DERIVEKEY(root_key, 0, serial)`, "for slots 1-15" the factory key
(R163); where none is given, the empty string, which MACRESP refuses (log 28). -/
def keyToCheck (rootKey serial : Bytes) (factoryKeys : List Bytes) (slot : Nat) : Bytes :=
  if slot = 0 then sha256 (derivekeyMsg rootKey 0 serial) else factoryKeys.getD slot []

/-- The requests that check slot 0: line 0 computes its key, then CHECKKEY (R163). -/
def checkkeyDerived (p : Params) (rootKey serial od : Bytes) (flags : Byte) : List Instr :=
  .derivekey rootKey 0 serial :: checkkey p 0 (keyToCheck rootKey serial [] 0) od flags

/-- The host's comparison of a computed checksum with that of the intended image, before any CMD.LOCK (R186, R199). -/
def lockPrecondition (computed : Half) (intended : Bytes) : Option HostError :=
  if computed = crcOf intended then none else some .checksumPrecondition

/-! ## Which commands use the chip's register -/

/-- The operations that act on the world outside the engine: SEND and the seven `CMD.*` (R133). -/
def isCommand : Instr → Bool
  | .send _ _ _ _ _ => true
  | .cmdRead _ _ _ _ => true
  | .cmdWrite _ _ _ _ _ _ => true
  | .cmdNonce _ _ => true
  | .cmdGendig _ _ _ => true
  | .cmdMac _ _ _ => true
  | .cmdCheckmac _ _ _ _ _ => true
  | .cmdLock _ _ _ => true
  | _ => false

/-- The kind of the response; none after a reset. -/
def Exchange.kind (e : Exchange) : Option Kind := e.response.map Response.kind

/-- The byte string of an `Ok` response. -/
def Exchange.okData (e : Exchange) : Option Bytes :=
  match e.response.bind Response.result with
  | some (.bytes b) => some b
  | _ => none

/-- The engine refused the request: nothing was sent (R171, R178). -/
def Exchange.refused (e : Exchange) : Bool :=
  decide (e.kind = some .badOperand) || decide (e.kind = some .badOpsel) || decide (e.kind = some .busy)

/-- What became of a command at the chip is not known: `NoResponse`, `CrcMismatch`, or a reset during the operation, which
for the host can have come after the frame had gone out (R178, R191, R197). -/
def Exchange.uncertain (e : Exchange) : Bool :=
  match e.kind with
  | none => true
  | some k => retryable k

/-- Count, opcode and parameters of the frame a command writes; none for an instruction that writes none, or that the
engine refuses for its zone (R66, R104, R122 to R128). -/
def commandHeader (p : Params) : Instr → Option Bytes
  | .send opcode param1 param2 payload _ => some (frameHeader opcode param1 param2 payload.length)
  | .cmdRead zone block offset fourByte =>
    (zoneOfCode p zone).map fun z => frameHeader p.opcRead (readParam1 p z fourByte) (locationParam block offset) 0
  | .cmdWrite zone block offset data mac encrypted =>
    (zoneOfCode p zone).map fun z =>
      frameHeader p.opcWrite (writeParam1 p z data encrypted) (locationParam block offset) (writePayload data mac).length
  | .cmdNonce mode input => some (frameHeader p.opcNonce mode 0x0000 input.length)
  | .cmdGendig zone slot extra =>
    (zoneOfCode p zone).map fun z => frameHeader p.opcGendig (zoneCode p z) (slotParam slot) extra.length
  | .cmdMac slot challenge flags => some (frameHeader p.opcMac flags (slotParam slot) challenge.length)
  | .cmdCheckmac slot challenge response otherData flags =>
    some (frameHeader p.opcCheckmac flags (slotParam slot) (challenge ++ response ++ otherData).length)
  | .cmdLock isData checksum skipChecksum =>
    some (frameHeader p.opcLock (lockParam1 p isData skipChecksum) checksum 0)
  | _ => none

/-- The `CMD.*` whose frame a bare SEND writes, told by the opcode and read from the fields of the frame (R72 to R80, R122
to R128); another instruction is left as it is. Bits and payload bytes that no field of the frame has are passed over
(log 22). -/
def onTheWire (p : Params) : Instr → Instr
  | .send opcode param1 param2 payload n =>
    let zone := param1 &&& 0x03
    let block := param2.toNat / 8
    let offset := param2.toNat % 8
    if opcode = p.opcRead then .cmdRead zone block offset (!sizeBitSet param1)
    else if opcode = p.opcWrite then
      let dataLen := readLen (!sizeBitSet param1)
      .cmdWrite zone block offset (payload.take dataLen)
        (if payload.length ≤ dataLen then none else some (payload.drop dataLen)) (decide (param1 &&& p.wrEncFlag ≠ 0x00))
    else if opcode = p.opcNonce then .cmdNonce param1 payload
    else if opcode = p.opcGendig then .cmdGendig param1 param2.toNat payload
    else if opcode = p.opcMac then .cmdMac param2.toNat payload param1
    else if opcode = p.opcCheckmac then
      .cmdCheckmac param2.toNat (payload.take 32) ((payload.drop 32).take 32) (payload.drop 64) param1
    else if opcode = p.opcLock then
      .cmdLock (decide (param1 &&& p.lockZoneData ≠ 0x00)) param2 (decide (param1 &&& p.lockSkipFlag ≠ 0x00))
    else .send opcode param1 param2 payload n
  | i => i

/-- The data length a `CMD.*` expects (R121). -/
def expectedLen : Instr → Option Nat
  | .cmdRead _ _ _ fourByte => some (readLen fourByte)
  | .cmdWrite _ _ _ _ _ _ => some 1
  | .cmdNonce mode _ => some (nonceLen mode)
  | .cmdGendig _ _ _ => some 1
  | .cmdMac _ _ _ => some 32
  | .cmdCheckmac _ _ _ _ _ => some 1
  | .cmdLock _ _ _ => some 1
  | _ => none

/-- The exchange as it went over the transport: a bare SEND counts as the `CMD.*` whose frame it writes, and where the
length of its data is not the one that command expects, with the outcome R121 gives the command then. -/
def Exchange.onTheWire (p : Params) (e : Exchange) : Exchange :=
  let i := Machine.onTheWire p e.instr
  let wrongLength := e.okData.any fun d => (expectedLen i).any (· ≠ d.length)
  { e with instr := i, response := if wrongLength then some (respCrcMismatch 0x02) else e.response }

/-- The policy of the Data slot a location lies in; none for another zone, and none for a block of Data past the slots the
plan lists (R12, R42, R49). The policy of the slot of the first word is taken for the whole access (log 25). -/
def policyAt (plan : HostPlan) (zone : Byte) (block offset : Nat) : Option SlotPolicy :=
  if zone = plan.params.zoneData then plan.policies[location block offset / 8]? else none

/-- The slot whose key authorizes an encrypted read of this location (R49). -/
def readKeyAt (plan : HostPlan) (zone : Byte) (block offset : Nat) : Option Nat :=
  (policyAt plan zone block offset).bind SlotPolicy.readKeySlot

/-- The slot whose key authorizes an encrypted write of this location (R49). -/
def writeKeyAt (plan : HostPlan) (zone : Byte) (block offset : Nat) : Option Nat :=
  (policyAt plan zone block offset).bind SlotPolicy.writeKeySlot

/-- A plain Read of this location returns the bytes of the zone: the slot is neither secret nor check-only (R49), and names
no read-key-slot. That every Read of a slot with a read-key-slot is encrypted, also where the slot is not secret, is the
model's choice (log 32). A location with no policy is taken to be read plainly (log 25). -/
def readsPlain (plan : HostPlan) (zone : Byte) (block offset : Nat) : Bool :=
  match policyAt plan zone block offset with
  | some policy => !policy.isSecret && !policy.checkOnly && policy.readKeySlot.isNone
  | none => true

/-- The Mac flags that name the register (R80, R126). -/
def macUsesRegister (p : Params) (challenge : Bytes) (flags : Byte) : Bool :=
  decide (challenge = []) || decide (flags &&& (p.macFlagRegEnd ||| p.macFlagRegStart ||| p.macFlagRegSource) ≠ 0x00)

/-- The command uses the chip's register: an encrypted Read, an authorized or encrypted Write, a Mac that names the
register, a CheckMac with a flag set (R126, R163, R195, R202; logs 22, 32). -/
def usesRegister (plan : HostPlan) : Instr → Bool
  | .cmdRead zone block offset _ => (readKeyAt plan zone block offset).isSome
  | .cmdWrite _ _ _ _ mac encrypted => mac.isSome || encrypted
  | .cmdMac _ challenge flags => macUsesRegister plan.params challenge flags
  | .cmdCheckmac _ _ _ _ flags => decide (flags ≠ 0x00)
  | _ => false

/-- The command can be a line of a sequence: Nonce, GenDig, CheckMac, or one that uses the register (R161 to R164). -/
def isSequenceCommand (plan : HostPlan) : Instr → Bool
  | .cmdNonce _ _ => true
  | .cmdGendig _ _ _ => true
  | .cmdCheckmac _ _ _ _ _ => true
  | i => usesRegister plan i

/-! ## What is kept in mind of a run -/

/-- What the chip's register is known to be (R125, R195, R198, R202). -/
inductive ChipRegister where
  /-- spent, or not known since a command whose fate is not known -/
  | lost
  /-- loaded by the Nonce of this run of a sequence -/
  | nonce (sequence : Nat)
  /-- mixed with the key of this slot by the GenDig of this run of a sequence -/
  | mixed (sequence slot : Nat)
  deriving DecidableEq, Repr

/-- A byte of a zone that the host knows, at its byte address `4 * param2 + i` (R43). -/
structure KnownByte where
  zone : Byte
  addr : Nat
  value : Byte
  deriving DecidableEq, Repr

/-- How far the pre-check of a Lock has come: a CRC16 over the whole image of the zone as the host knows it, compared with
the intended image (R96, R186, R199). -/
inductive LockCheck where
  /-- not made since the last Lock was sent -/
  | open
  /-- the image and its checksum are the intended ones -/
  | passed (image : Bytes) (checksum : Half)
  /-- "treat this as fatal, not retryable": no Lock of the zone may follow (R199), nor after the chip rejected one (R200) -/
  | failed
  deriving DecidableEq, Repr

/-- What must be kept in mind of a run so far, by all hosts together (log 30). -/
structure HostView where
  /-- the chip's register -/
  register : ChipRegister
  /-- the run of a sequence whose Nonce was the last to succeed, and the chip nonce it left (R152) -/
  nonce : Option (Nat × Bytes)
  /-- every session key computed so far -/
  sessionKeys : List Bytes
  /-- the session key of the last nonce -/
  liveKey : Option Bytes
  /-- the live key has encrypted or decrypted its 32 bytes -/
  xorUsed : Bool
  /-- the live key has authorized its write -/
  macUsed : Bool
  /-- the run of a sequence that holds the lease, and its host -/
  lease : Option (Nat × Nat)
  /-- runs of sequences after whose last command another command was issued -/
  closed : List Nat
  /-- the headers of the commands the chip rejected -/
  rejected : List Bytes
  /-- bytes of the zones the host knows, newest first -/
  known : List KnownByte
  /-- zone and address of the bytes of Writes that a reset abandoned, where no Read has told since what they are -/
  doubtful : List (Byte × Nat)
  /-- the pre-check of the Lock of Config -/
  configCheck : LockCheck
  /-- the pre-check of the Lock of Data and OTP -/
  dataCheck : LockCheck
  /-- the Config zone is locked -/
  configLocked : Bool
  /-- the Data and OTP zones are locked -/
  dataLocked : Bool
  /-- the host whose Lock ended uncertain and that has not read the lock state back, and whether it is that of Data -/
  unresolvedLock : Option (Nat × Bool)
  deriving DecidableEq, Repr

/-- Before the first exchange with a chip nothing of which is locked. -/
def HostView.start : HostView :=
  { register := .lost, nonce := none, sessionKeys := [], liveKey := none, xorUsed := false, macUsed := false,
    lease := none, closed := [], rejected := [], known := [], doubtful := [], configCheck := .open,
    dataCheck := .open, configLocked := false, dataLocked := false, unresolvedLock := none }

/-- The pre-check of the Lock of a zone. -/
def HostView.check (view : HostView) (isData : Bool) : LockCheck := if isData then view.dataCheck else view.configCheck

/-- The view with another pre-check for the Lock of a zone. -/
def HostView.setCheck (view : HostView) (isData : Bool) (c : LockCheck) : HostView :=
  if isData then { view with dataCheck := c } else { view with configCheck := c }

/-- The zone is locked. -/
def HostView.locked (view : HostView) (isData : Bool) : Bool := if isData then view.dataLocked else view.configLocked

/-- The byte address of a location (R43). -/
def byteAddr (block offset : Nat) : Nat := 4 * location block offset

/-- Known bytes of a zone from an address on. That the bytes of a response are those at the addresses that follow one
another, over the border of a block too, is the model's choice (log 25; R46 leaves it to the chip). -/
def knownFrom (zone : Byte) : Nat → Bytes → List KnownByte
  | _, [] => []
  | addr, b :: rest => { zone := zone, addr := addr, value := b } :: knownFrom zone (addr + 1) rest

/-- The byte `a` of zone `z` is one of the `n` bytes of `zone` from `addr` on: those an access of `n` bytes is taken to touch,
over the border of a block too (log 25; R46 leaves it to the chip). -/
def covers (zone : Byte) (addr n : Nat) (z : Byte) (a : Nat) : Bool :=
  decide (z = zone) && decide (addr ≤ a) && decide (a < addr + n)

/-- The known bytes that a write of `n` bytes at `addr` leaves known. -/
def forget (zone : Byte) (addr n : Nat) (known : List KnownByte) : List KnownByte :=
  known.filter fun k => !covers zone addr n k.zone k.addr

/-- The known value of a byte of a zone. -/
def lookup (known : List KnownByte) (zone : Byte) (addr : Nat) : Option Byte :=
  (known.find? fun k => decide (k.zone = zone) && decide (k.addr = addr)).map KnownByte.value

/-- The `n` first bytes of a zone, where all of them are known. -/
def knownImage (known : List KnownByte) (zone : Byte) (n : Nat) : Option Bytes :=
  (List.range n).mapM (lookup known zone)

/-- The image of a lock checksum, where all of it is known: 88 bytes of Config, or the 512 bytes of the Data zone and
the 64 of OTP (R42, R96). -/
def lockImage (plan : HostPlan) (known : List KnownByte) (isData : Bool) : Option Bytes :=
  if isData then
    match knownImage known plan.params.zoneData 512, knownImage known plan.params.zoneOtp 64 with
    | some keys, some otp => some (keys ++ otp)
    | _, _ => none
  else knownImage known plan.params.zoneConfig 88

/-- The known bytes after an exchange: those a plain Read returned, and, where a plain Read cannot return them, the bytes
of an acknowledged plain Write; a write whose fate or plaintext is not known leaves its bytes unknown, a SEND of an opcode
that is no `CMD.*` leaves nothing known; after a Lock of Config, certain or not, everything is to be established again, and after an uncertain Lock
of Data everything that can be read back (R47, R49, R96, R191, R199). That no other byte changes, the use-counters of
Config among them, of which R42 says nothing more, is the model's choice (log 29). -/
def knownAfter (plan : HostPlan) (known : List KnownByte) (e : Exchange) : List KnownByte :=
  if e.refused then known
  else
    match e.instr with
    | .cmdRead zone block offset _ =>
      match e.okData with
      | some d => if readsPlain plan zone block offset then knownFrom zone (byteAddr block offset) d ++ known else known
      | none => known
    | .cmdWrite zone block offset data mac encrypted =>
      let rest := forget zone (byteAddr block offset) data.length known
      if e.kind = some .ok ∧ mac = none ∧ encrypted = false ∧ readsPlain plan zone block offset = false then
        knownFrom zone (byteAddr block offset) data ++ rest
      else rest
    | .cmdLock isData _ _ =>
      if e.kind = some .chipError then known
      else if !isData then []
      else if e.uncertain then known.filter fun k => !readsPlain plan k.zone (k.addr / 32) 0
      else known
    | .send _ _ _ _ _ => []
    | _ => known

/-- The bytes in doubt after an exchange: those of a Write that a reset abandoned, until the chip has answered a Read of
them: the host "must find out by reading" (R191). -/
def doubtAfter (doubtful : List (Byte × Nat)) (e : Exchange) : List (Byte × Nat) :=
  match e.instr with
  | .cmdWrite zone block offset data _ _ =>
    if e.response = none then (List.range data.length).map (fun i => (zone, byteAddr block offset + i)) ++ doubtful
    else doubtful
  | .cmdRead zone block offset fourByte =>
    if e.kind = some .ok ∨ e.kind = some .chipError then
      doubtful.filter fun (z, addr) => !covers zone (byteAddr block offset) (if fourByte then 4 else 32) z addr
    else doubtful
  | _ => doubtful

/-- The chip's register after an exchange: a refused request leaves it, a command of the sequence that succeeded moves it
on, and every other command leaves it spent or unknown, a Lock and a SEND of another opcode among them, of which the spec
does not say what they do to it (log 22); a command a reset cut short is one whose fate is not known (R125, R191, R195, R197,
R198). -/
def registerAfter (plan : HostPlan) (register : ChipRegister) (e : Exchange) : ChipRegister :=
  if !isCommand e.instr || e.refused then register
  else
    match e.instr with
    | .cmdNonce _ _ =>
      match e.sequence with
      | some q => if e.kind = some .ok then .nonce q else .lost
      | none => .lost
    | .cmdGendig zone slot extra =>
      match register with
      | .nonce q =>
        if e.kind = some .ok ∧ zone = plan.params.zoneData ∧ extra = [] then .mixed q slot else .lost
      | _ => .lost
    | _ => .lost

/-- The view after an exchange that computed or used a key, or loaded a nonce; a pure operation that a
reset abandoned "leaves no trace" (R152, R191, R195). Which SESSKEY under one nonce answers its session key, the first
whatever its slot, and that the key ends at the next Nonce of anyone, are the model's choices (log 34). -/
def HostView.followKeys (view : HostView) (e : Exchange) : HostView :=
  match e.instr, e.okData with
  | .cmdNonce mode input, some r =>
    { view with
      nonce := e.sequence.map fun q => (q, chipNonceOf r input mode)
      liveKey := none, xorUsed := false, macUsed := false }
  | .cmdNonce _ _, none => if e.refused then view else { view with nonce := none, liveKey := none }
  | .sesskey _ _ _ chipNonce, some sk =>
    { view with
      sessionKeys := sk :: view.sessionKeys
      liveKey :=
        if view.liveKey = none ∧ e.sequence.isSome ∧ view.nonce = e.sequence.map (·, chipNonce) then some sk
        else view.liveKey }
  | .xor32 a b, some _ =>
    if a ∈ view.sessionKeys ∨ b ∈ view.sessionKeys then { view with xorUsed := true } else view
  | .wrmac key _ _ _, some _ => if key ∈ view.sessionKeys then { view with macUsed := true } else view
  | _, _ => view

/-- The lease after a command: the command's own sequence holds it, and any other sequence that held it is closed
(R196). -/
def HostView.followLease (view : HostView) (e : Exchange) : HostView :=
  if isCommand e.instr then
    let lease := e.sequence.map (·, e.host)
    { view with
      lease := lease
      closed :=
        match view.lease with
        | some (q, _) => if e.sequence = some q then view.closed else q :: view.closed
        | none => view.closed }
  else view

/-- The rejections after a command: a `ChipError` adds one, and none is ever forgotten: "never after `ChipError`" (R129,
R200). -/
def rejectedAfter (p : Params) (rejected : List Bytes) (e : Exchange) : List Bytes :=
  if e.kind = some .chipError then (commandHeader p e.instr).toList ++ rejected else rejected

/-- The pre-check of a Lock after the CRC16 of `image` answered `c`: it counts where `image` is the whole image of the zone
as read back, and a mismatch is for good (R186, R199). -/
def HostView.followCheck (plan : HostPlan) (view : HostView) (image : Bytes) (c : Half) (isData : Bool) : HostView :=
  if view.check isData = .failed ∨ lockImage plan view.known isData ≠ some image then view
  else if image = plan.image isData ∧ lockPrecondition c (plan.image isData) = none then
    view.setCheck isData (.passed image c)
  else view.setCheck isData .failed

/-- The view in which the zone is locked: "Locking is irreversible" (R199). -/
def HostView.lock (view : HostView) (isData : Bool) : HostView :=
  if isData then { view with dataLocked := true } else { view with configLocked := true }

/-- The view after a Read of the Config zone returned `d` from `addr` on: where the byte of the zone's lock is among them
it says whether the zone is locked, and resolves an uncertain Lock of that zone (R191, R199). -/
def HostView.followLockState (plan : HostPlan) (addr : Nat) (d : Bytes) (view : HostView) (isData : Bool) : HostView :=
  let place := plan.lockPlace isData
  if addr ≤ place.addr then
    match d[place.addr - addr]? with
    | some b =>
      let view := if b = place.unlocked then view else view.lock isData
      { view with unresolvedLock := view.unresolvedLock.filter fun (_, z) => z != isData }
    | none => view
  else view

/-- The lock state and the pre-checks after an exchange: an acknowledged Lock took, a rejected one is not issued again, and
after an uncertain one the lock state is to be read back; each Lock sent asks for a new pre-check (R128, R191, R199,
R200). -/
def HostView.followLock (plan : HostPlan) (view : HostView) (e : Exchange) : HostView :=
  if e.refused then view
  else
    match e.instr with
    | .cmdLock isData _ _ =>
      if e.kind = some .chipError then view.setCheck isData .failed
      else
        let view := if view.check isData = .failed then view else view.setCheck isData .open
        if e.uncertain then { view with unresolvedLock := some (e.host, isData) } else view.lock isData
    | .cmdRead zone block offset _ =>
      match e.okData with
      | some d =>
        if zone = plan.params.zoneConfig then
          [false, true].foldl (HostView.followLockState plan (byteAddr block offset) d) view
        else view
      | none => view
    | .crc16 bytes offset length =>
      match e.response.bind Response.result with
      | some (.u16 c) => [false, true].foldl (HostView.followCheck plan · (slice bytes offset (offset + length)) c) view
      | _ => view
    | _ => view

/-- The view after an exchange, as it went over the transport. -/
def HostView.follow (plan : HostPlan) (view : HostView) (exchange : Exchange) : HostView :=
  let e := exchange.onTheWire plan.params
  let view := ((view.followKeys e).followLease e).followLock plan e
  { view with
    register := registerAfter plan view.register e
    rejected := rejectedAfter plan.params view.rejected exchange
    known := knownAfter plan view.known e
    doubtful := doubtAfter view.doubtful e }

/-! ## The obligations -/

/-- The exchange's sequence loaded the register and has not spent it (R195, R202). -/
def registerLoaded (view : HostView) (e : Exchange) : Bool :=
  match view.register with
  | .nonce q => decide (e.sequence = some q)
  | .mixed q _ => decide (e.sequence = some q)
  | .lost => false

/-- The exchange's sequence mixed the key of the authorizing slot into the register and has not spent it; `key` is that
slot where the policy names one (R49, R162, R202). Where it names none, any slot that was mixed will do: the model's choice
(log 33). -/
def registerMixed (view : HostView) (e : Exchange) (key : Option Nat) : Bool :=
  match view.register with
  | .mixed q slot => decide (e.sequence = some q) && (decide (key = none) || decide (key = some slot))
  | _ => false

/-- Nonce, then GenDig, then the one dependent command, all of one sequence within the life of its nonce (R195, R198,
R202). -/
def inOrder (plan : HostPlan) (view : HostView) (e : Exchange) : Bool :=
  if e.refused then true
  else
    match e.instr with
    | .cmdGendig _ _ _ => decide (e.sequence.map ChipRegister.nonce = some view.register)
    | .cmdRead zone block offset _ =>
      !usesRegister plan e.instr || registerMixed view e (readKeyAt plan zone block offset)
    | .cmdWrite zone block offset _ _ _ =>
      !usesRegister plan e.instr || registerMixed view e (writeKeyAt plan zone block offset)
    | i => !usesRegister plan i || registerLoaded view e

/-- The exchange uses the live session key, in the sequence of its nonce (R195) and before the next Nonce of anyone (log
34). -/
def usesLiveKey (view : HostView) (e : Exchange) (key : Bytes) : Bool :=
  decide (view.liveKey = some key) && e.sequence.isSome && decide (view.nonce.map Prod.fst = e.sequence)

/-- "This session_key is usable exactly once per nonce": a session key is used only in the sequence of the nonce it was
computed from, for one XOR32 and one WRMAC (R153, R161, R162, R195). That these two requests are what counts as a use is the
model's choice: with which key the data and the MAC of a Write were computed is not looked into (log 31). -/
def oneKeyPerNonce (view : HostView) (e : Exchange) : Bool :=
  if e.refused then true
  else
    match e.instr with
    | .xor32 a b =>
      decide (a ∉ view.sessionKeys ∧ b ∉ view.sessionKeys) ||
        (!view.xorUsed && (usesLiveKey view e a || usesLiveKey view e b))
    | .wrmac key _ _ _ => decide (key ∉ view.sessionKeys) || (!view.macUsed && usesLiveKey view e key)
    | _ => true

/-- From the Nonce of a sequence to its last command "no other `CMD.*` or SEND may be issued by anyone": a sequence after
whose commands another command came issues none any more, one host issues all of them, and each is a line a sequence can
have (R52, R196). -/
def keepsLease (plan : HostPlan) (view : HostView) (e : Exchange) : Bool :=
  match e.sequence with
  | none => true
  | some q =>
    !isCommand e.instr ||
      (decide (q ∉ view.closed) && isSequenceCommand plan e.instr &&
        match view.lease with
        | some (q', h) => decide (q = q' → e.host = h)
        | none => true)

/-- The guard of a Lock, whether or not it supplies the checksum: the zone is not locked, Config comes before Data, the
final image is known from what was read back, its pre-check passed, and a checksum supplied is the one it computed (R96,
R186, R199). Whose Reads and CRC16 they were is not asked: the rule does not speak of several hosts, and that all of them
share what is known is the model's choice (log 30). -/
def lockAllowed (plan : HostPlan) (view : HostView) (isData : Bool) (checksum : Half) (skipChecksum : Bool) : Bool :=
  !view.locked isData && (!isData || view.configLocked) &&
  match view.check isData with
  | .passed image c => decide (lockImage plan view.known isData = some image) && (skipChecksum || decide (checksum = c))
  | _ => false

/-- After an uncertain Lock its host reads the lock state back, from the Config zone, "before doing anything else", and
nobody else issues a command, until a Read has told the state (R191, R199). The rule speaks of that host only; that the
commands of the others wait too is the model's choice (log 22). -/
def readsLockStateBack (plan : HostPlan) (view : HostView) (e : Exchange) : Bool :=
  match view.unresolvedLock with
  | none => true
  | some (h, _) =>
    if e.host = h then
      match e.instr with
      | .cmdRead zone _ _ _ => decide (zone = plan.params.zoneConfig)
      | _ => false
    else !isCommand e.instr

/-- A Lock is guarded, and an uncertain one is resolved first (R199). -/
def guardsLock (plan : HostPlan) (view : HostView) (e : Exchange) : Bool :=
  readsLockStateBack plan view e &&
  match e.instr with
  | .cmdLock isData checksum skipChecksum => lockAllowed plan view isData checksum skipChecksum
  | _ => true

/-- The bytes of a Write that a reset abandoned are read before they are written again (R191), by any host
(log 30). -/
def readsWriteBack (view : HostView) (e : Exchange) : Bool :=
  match e.instr with
  | .cmdWrite zone block offset data _ _ =>
    view.doubtful.all fun (z, addr) => !covers zone (byteAddr block offset) data.length z addr
  | _ => true

/-- "Must NOT retry a `ChipError`": no command with the header of one the chip rejected is issued again, whatever comes in
between and whatever nonce, ciphertext or MAC its payload carries (R129, R178, R200; log 22). -/
def neverRetriesRejection (p : Params) (view : HostView) (e : Exchange) : Bool :=
  match commandHeader p e.instr with
  | some header => decide (header ∉ view.rejected)
  | none => true

/-- The next exchange keeps every obligation of R191 and R195 to R202, as it went over the transport; a line of a sequence is
the `CMD.*` itself and never a SEND (R161 to R164, R196), and a retry has the header of the frame that was sent. How often a
host may issue a command again after `NoResponse` or `CrcMismatch` is not bounded here: the spec leaves the count open
(R129; log 27). -/
def keepsObligations (plan : HostPlan) (view : HostView) (exchange : Exchange) : Bool :=
  let e := exchange.onTheWire plan.params
  inOrder plan view e && oneKeyPerNonce view e && keepsLease plan view exchange && guardsLock plan view e &&
  readsWriteBack view e && neverRetriesRejection plan.params view exchange

/-- A run of hosts that keeps the obligations of R191 and R195 to R202 from this view on. -/
def hostSafe (plan : HostPlan) (view : HostView) : List Exchange → Bool
  | [] => true
  | e :: rest => keepsObligations plan view e && hostSafe plan (view.follow plan e) rest

end Sys2Proof.Machine
end

