-- ==== Sys2Proof/Safety.lean ====
section
/-! DEFINITION. What counts as a safe run: the invariant of the machine, and what a host may observe of a
state. The obligations of a host on its run (R195 to R202) stand in Machine/HostObligations.lean (log 22). -/

namespace Sys2Proof.Machine

/-- A response record has legal values: `Ok` has code 0 and a result, `CrcMismatch` a sub-cause 0, 1 or 2, `ChipError` a
code 1..255, every other kind code 0; only `Ok` has a result (R24, R170, R171, R172). -/
def responseLegal (r : Response) : Bool :=
  match r.kind with
  | .ok => decide (r.code = 0x00) && r.result.isSome
  | .crcMismatch => decide (r.code.toNat ≤ 2) && decide (r.result = none)
  | .chipError => decide (r.code ≠ 0x00) && decide (r.result = none)
  | _ => decide (r.code = 0x00) && decide (r.result = none)

/-- A transport event is one the engine can make: a frame of at most `FRAME_MAX` bytes, a read answered by `Nack` or by
exactly the bytes asked for (R28, R44, R100). -/
def eventLegal (p : Params) : TxEvent → Bool
  | .write frame _ => decide (frame.length ≤ p.frameMax)
  | .read n answer => decide (∀ bs ∈ answer, bs.length = n)

/-- The invariant of the machine. -/
structure Invariant (s : State) : Prop where
  /-- the parameters are legal (R7, R24; in the sense of logs 24 and 26) -/
  params : paramsLegal s.params = true
  /-- `BUSY = 1` exactly when an operation is in flight (R24, R30) -/
  busy : s.busy = true ↔ s.stage ≠ .idle
  /-- `ATTEMPT` is "never above POLL_MAX" (R28) -/
  attempt : s.codec.attempt ≤ s.params.pollMax
  /-- `TX` holds at most `FRAME_MAX` bytes (R28) -/
  tx : s.codec.tx.length ≤ s.params.frameMax
  /-- `MSG` holds at most 96 bytes (R27) -/
  msg : s.hashUnit.msg.length ≤ 96
  /-- `W` has 64 words (R27) -/
  w : s.hashUnit.w.length = 64
  /-- `DIGEST` has 32 bytes (R27) -/
  digest : s.hashUnit.digest.length = 32
  /-- every response delivered has legal values (R24) -/
  delivered : ∀ r ∈ s.delivered, responseLegal r = true
  /-- every event on the transport is one the engine can make (R28, R44) -/
  wire : ∀ e ∈ s.wire, eventLegal s.params e = true

/-- No request and no reset arrives before the next event of the operation. -/
def quiet (inputs : List Input) : Bool :=
  match inputs with
  | .during _ :: _ => false
  | _ => true

/-- What outlasts an operation or stands outside the engine: everything but the working registers (R20, R25, R26 to
R28). -/
def observe (s : State) : State :=
  { s with crcUnit := resetCrcUnit, hashUnit := resetHashUnit, codec := resetCodec }

end Sys2Proof.Machine
end

