-- ==== Sys2Proof/Certificates/Slice0/Obligations.lean ====
section
/-! DEFINITION. The statements for the provers. The names under `Sys2Proof.Spec` write the rules out once more, byte by
byte, so that a statement does not lean on the definition it is about. -/

namespace Sys2Proof.Spec

open Sys2Proof.Machine

/-- A response that raises: the kind, the code and no result (R170). -/
def raised (k : Kind) (code : Byte) : Response := { kind := k, code := code, result := none }

/-- `Ok` with bytes (R170). -/
def okBytes (b : Bytes) : Response := { kind := .ok, code := 0x00, result := some (.bytes b) }

/-- The frame of R66 and R100, byte by byte; its CRC is over the bytes from the count byte on. -/
def frameOf (opcode param1 : Byte) (param2 : Half) (payload : Bytes) : Bytes :=
  let covered := [BitVec.ofNat 8 (7 + payload.length), opcode, param1, low param2, high param2] ++ payload
  [0x03] ++ covered ++ [low (crcOf covered), high (crcOf covered)]

/-- The bytes of a frame `f` with its own count byte and CRC (R66). -/
def rawFrame (opcode : Byte) (f : Frame) : Bytes :=
  [0x03, f.count, opcode, f.param1, low f.param2, high f.param2] ++ f.payload ++ [low f.crc, high f.crc]

/-- The outcome of PARSE, check by check (R102). -/
def parseOutcome (rx : Bytes) : Response :=
  let l := (rx.getD 0 0x00).toNat
  let c := crcOf (rx.take (l - 2))
  if rx = [] then raised .badOperand 0x00
  else if l < 4 ∨ l > rx.length then raised .crcMismatch 0x01
  else if rx.getD (l - 2) 0x00 ≠ low c ∨ rx.getD (l - 1) 0x00 ≠ high c then raised .crcMismatch 0x00
  else if l = 4 ∧ rx.getD 1 0x00 ≠ 0x00 then raised .chipError (rx.getD 1 0x00)
  else okBytes ((rx.drop 1).take (l - 3))

/-- The outcome of a command that expects `dataLen` data bytes (R121): PARSE, then the length check. -/
def commandOutcome (dataLen : Option Nat) (rx : Bytes) : Response :=
  match dataLen with
  | none => parseOutcome rx
  | some n =>
    if (parseOutcome rx).kind = .ok ∧ (rx.getD 0 0x00).toNat - 3 ≠ n then raised .crcMismatch 0x02 else parseOutcome rx

/-- The instruction completes with response `r` and makes no transport access: the response is delivered, `BUSY = 0`,
no operation is in flight, and parameters, inputs, the transport stream and the free values' index are unchanged. -/
structure Ends (i : Instr) (s t : State) (r : Response) : Prop where
  next : exec i s = .next t
  delivered : t.delivered = s.delivered ++ [r]
  busy : t.busy = false
  stage : t.stage = .idle
  params : t.params = s.params
  inputs : t.inputs = s.inputs
  wire : t.wire = s.wire
  freeCount : t.freeCount = s.freeCount

/-- Refused with `BadOperand`, before any other effect: nothing is sent and no working register changes (R174). -/
def Refuses (i : Instr) (s : State) : Prop :=
  ∃ t, Ends i s t (raised .badOperand 0x00) ∧ t.crcUnit = s.crcUnit ∧ t.hashUnit = s.hashUnit ∧ t.codec = s.codec

/-- Completes with `Ok(SHA256(msg))`: `MSG` holds `msg`, `DIGEST` its digest, the other units are unchanged. -/
def AnswersHash (i : Instr) (s : State) (msg : Bytes) : Prop :=
  ∃ t, Ends i s t (okBytes (sha256 msg)) ∧ t.hashUnit.msg = msg ∧ t.hashUnit.digest = sha256 msg ∧
    t.crcUnit = s.crcUnit ∧ t.codec = s.codec

/-- Completes with a result that needs no unit: no working register changes. -/
def AnswersBytes (i : Instr) (s : State) (result : Bytes) : Prop :=
  ∃ t, Ends i s t (okBytes result) ∧ t.crcUnit = s.crcUnit ∧ t.hashUnit = s.hashUnit ∧ t.codec = s.codec

/-- What a SEND or `CMD.*` that writes `frame` leaves when it ends with response `r` after the transport events
`events`, `attempts` of them reads: what it does not write is unchanged. -/
structure EndsAfter (i : Instr) (s t : State) (frame : Bytes) (events : List TxEvent) (attempts : Nat) (rest : List Input)
    (r : Response) : Prop where
  next : exec i s = .next t
  delivered : t.delivered = s.delivered ++ [r]
  wire : t.wire = s.wire ++ events
  inputs : t.inputs = rest
  busy : t.busy = false
  stage : t.stage = .idle
  params : t.params = s.params
  hashUnit : t.hashUnit = s.hashUnit
  tx : t.codec.tx = frame
  attempt : t.codec.attempt = attempts

/-- The instruction writes `frame` once and polls with reads of `n` bytes (R104), in the three ways the transport can
answer: bytes at read `k + 1`, `Nack` on the write, `Nack` on every read. -/
structure RunsFrame (i : Instr) (frame : Bytes) (n : Nat) (dataLen : Option Nat) (s : State) : Prop where
  bytesRead : ∀ (k : Nat) (rx : Bytes) (rest : List Input), k < s.params.pollMax → rx.length = n → quiet rest = true →
    s.inputs = .writeAnswer true :: (List.replicate k (.readAnswer none) ++ .readAnswer (some rx) :: rest) →
    ∃ t, EndsAfter i s t frame
        (.write frame true :: (List.replicate k (.read n none) ++ [.read n (some rx)])) (k + 1) rest
        (commandOutcome dataLen rx) ∧ t.codec.rx = rx
  writeNack : ∀ (rest : List Input), quiet rest = true → s.inputs = .writeAnswer false :: rest →
    ∃ t, EndsAfter i s t frame [.write frame false] 0 rest (raised .noResponse 0x00)
  everyReadNack : ∀ (rest : List Input), quiet rest = true →
    s.inputs = .writeAnswer true :: (List.replicate s.params.pollMax (.readAnswer none) ++ rest) →
    ∃ t, EndsAfter i s t frame (.write frame true :: List.replicate s.params.pollMax (.read n none)) s.params.pollMax rest
        (raised .noResponse 0x00)

/-- A request with this `opsel` and the right operands is the instruction `i` (R60, R61). -/
def Selects (opsel : Byte) (i : Instr) : Prop := ∃ operands, decodeRequest { opsel := opsel, operands := operands } = .ok i

/-- The `opsel` values R61 assigns. -/
def assignedOpsels : List Nat :=
  [0x01, 0x10, 0x11, 0x12, 0x20, 0x21, 0x22, 0x23, 0x24, 0x25, 0x26, 0x30, 0x31, 0x32, 0x33, 0x34, 0x35, 0x36, 0x37]

/-- One round of R143, the right-hand sides with the values from before the assignment. -/
def roundOf (v : Eight) (k w : Word) : Eight :=
  let (a, b, c, d, e, f, g, h) := (v.x0, v.x1, v.x2, v.x3, v.x4, v.x5, v.x6, v.x7)
  let s1 := e.rotateRight 6 ^^^ e.rotateRight 11 ^^^ e.rotateRight 25
  let ch := (e &&& f) ^^^ (~~~e &&& g)
  let t1 := h + s1 + ch + k + w
  let s0 := a.rotateRight 2 ^^^ a.rotateRight 13 ^^^ a.rotateRight 22
  let maj := (a &&& b) ^^^ (a &&& c) ^^^ (b &&& c)
  let t2 := s0 + maj
  ⟨t1 + t2, a, b, c, d + t1, e, f, g⟩

/-- The zone code names one of the three zones (R73). -/
def namesZone (p : Params) (zone : Byte) : Prop := zone = p.zoneConfig ∨ zone = p.zoneOtp ∨ zone = p.zoneData

/-- The instructions of format OPREQ: those a host requests (R61). -/
def isRequest : Instr → Bool
  | .wireRead _ => false
  | .wireWrite _ => false
  | .wireNonce _ => false
  | .wireGendig _ => false
  | .wireMac _ => false
  | .wireCheckmac _ => false
  | .wireLock _ => false
  | .response _ _ => false
  | _ => true

/-- The operations with no transport access: CRC16, FRAME, PARSE and the hash unit (R183, R196). -/
def isPure (i : Instr) : Bool := isRequest i && !isCommand i

/-- A well-formed response with the data bytes `d` (R69). -/
def responseOf (d : Bytes) : Bytes :=
  let covered := BitVec.ofNat 8 (d.length + 3) :: d
  covered ++ [low (crcOf covered), high (crcOf covered)]

/-- The frame an instruction puts on the transport, and how many bytes each read asks for (R66, R100, R104, R120 to
R128); none for an instruction that makes no transport access. -/
def sentBy (p : Params) : Instr → Option (Bytes × Nat)
  | .send opcode param1 param2 payload n => some (frameOf opcode param1 param2 payload, n)
  | .cmdRead zone block offset fourByte =>
    some (frameOf p.opcRead (zone ||| (if fourByte then 0x00 else 0x80)) (BitVec.ofNat 16 (8 * block + offset)) [], 38)
  | .cmdWrite zone block offset data mac encrypted =>
    some (frameOf p.opcWrite
      (zone ||| (if data.length = 32 then 0x80 else 0x00) ||| (if encrypted then p.wrEncFlag else 0x00))
      (BitVec.ofNat 16 (8 * block + offset)) (data ++ mac.getD []), 38)
  | .cmdNonce mode input => some (frameOf p.opcNonce mode 0x0000 input, 38)
  | .cmdGendig zone slot extra => some (frameOf p.opcGendig zone (BitVec.ofNat 16 slot) extra, 38)
  | .cmdMac slot challenge flags => some (frameOf p.opcMac flags (BitVec.ofNat 16 slot) challenge, 38)
  | .cmdCheckmac slot challenge response otherData flags =>
    some (frameOf p.opcCheckmac flags (BitVec.ofNat 16 slot) (challenge ++ response ++ otherData), 38)
  | .cmdLock isData checksum skipChecksum =>
    some (frameOf p.opcLock
      ((if isData then p.lockZoneData else 0x00) ||| (if skipChecksum then p.lockSkipFlag else 0x00)) checksum [], 38)
  | .wireRead f => some (rawFrame p.opcRead f, 38)
  | .wireWrite f => some (rawFrame p.opcWrite f, 38)
  | .wireNonce f => some (rawFrame p.opcNonce f, 38)
  | .wireGendig f => some (rawFrame p.opcGendig f, 38)
  | .wireMac f => some (rawFrame p.opcMac f, 38)
  | .wireCheckmac f => some (rawFrame p.opcCheckmac f, 38)
  | .wireLock f => some (rawFrame p.opcLock f, 38)
  | _ => none

/-- The instruction is abandoned after the transport events `events` (R191): no response is delivered, what went out
stays out, the engine is idle, the parameters and the rest of the inputs are untouched. -/
def AbandonedAfter (i : Instr) (s : State) (events : List TxEvent) (rest : List Input) : Prop :=
  ∃ t, exec i s = .next t ∧ t.delivered = s.delivered ∧ t.wire = s.wire ++ events ∧ t.busy = false ∧ t.stage = .idle ∧
    t.params = s.params ∧ t.inputs = rest

end Sys2Proof.Spec

open Sys2Proof Sys2Proof.Machine Sys2Proof.Spec

/-! ## The CRC unit -/

/-- R90: `rev8` is the three swaps, it sets `out[i] = b[7-i]`, and it undoes itself; with the rule's examples.
That it undoes itself is an inference the spec marks as derived from this rule. -/
def Obligations.Rev8ReversesTheBitsOfAByte : Prop :=
  (∀ b : Byte,
    (∀ i : Fin 8, (rev8 b).getLsbD i = b.getLsbD (7 - i)) ∧
    (let b1 := ((b &&& 0x55) <<< 1) ||| ((b &&& 0xAA) >>> 1)
     let b2 := ((b1 &&& 0x33) <<< 2) ||| ((b1 &&& 0xCC) >>> 2)
     rev8 b = ((b2 &&& 0x0F) <<< 4) ||| ((b2 &&& 0xF0) >>> 4)) ∧
    rev8 (rev8 b) = b) ∧
  rev8 0x01 = 0x80 ∧ rev8 0x02 = 0x40 ∧ rev8 0x03 = 0xC0 ∧ rev8 0x0F = 0xF0 ∧ rev8 0x16 = 0x68 ∧ rev8 0xA5 = 0xA5 ∧
  rev8 0x00 = 0x00 ∧ rev8 0xFF = 0xFF

/-- R91: `crc_step` XORs the reversed byte into bits 15..8, then shifts left eight times; whenever the bit shifted out of
bit 15 was set, the shifted value is XOR-ed with `0x8005`. -/
def Obligations.CrcStepFollowsItsPseudocode : Prop :=
  ∀ (crc : Half) (b : Byte),
    crcStep crc b =
      (List.range 8).foldl (fun c _ => if c.getLsbD 15 then (c <<< 1) ^^^ 0x8005 else c <<< 1)
        (crc ^^^ ((rev8 b).zeroExtend 16 <<< 8))

/-- R92: the bit-serial form gives the same value as `crc_step` for every register and byte. -/
def Obligations.CrcStepIsTheBitSerialForm : Prop :=
  ∀ (crc : Half) (b : Byte), crcStep crc b = crcSerialStep crc b

/-- R93: CRC16 answers the CRC of the range, `CRC` starting from 0 and absorbing the bytes in ascending order; a
range that leaves the string is refused. Nothing but the CRC unit changes. What `CRC` holds once the operation has
ended is the model's choice (log 6). -/
def Obligations.Crc16AnswersTheCrcOfTheRange : Prop :=
  ∀ (s : State) (bytes : Bytes) (offset length : Nat), quiet s.inputs = true →
    Selects 0x01 (.crc16 bytes offset length) ∧
    (offset + length ≤ bytes.length →
      let c := ((bytes.drop offset).take length).foldl crcStep 0x0000
      ∃ t, Ends (.crc16 bytes offset length) s t { kind := .ok, code := 0x00, result := some (.u16 c) } ∧
        t.crcUnit.crc = c ∧ t.hashUnit = s.hashUnit ∧ t.codec = s.codec) ∧
    (bytes.length < offset + length → Refuses (.crc16 bytes offset length) s)

/-- R94(a), (b): the empty range has CRC 0, and leading zero bytes never change a CRC. -/
def Obligations.LeadingZeroBytesNeverChangeACrc : Prop :=
  crcOf [] = 0x0000 ∧ ∀ (n : Nat) (s : Bytes), crcOf (List.replicate n 0x00 ++ s) = crcOf s

/-- R94(d): `crc16(a XOR b) = crc16(a) XOR crc16(b)` for strings of one length. -/
def Obligations.CrcIsLinear : Prop :=
  ∀ a b : Bytes, a.length = b.length → crcOf (List.zipWith (· ^^^ ·) a b) = crcOf a ^^^ crcOf b

/-- R94(e): strings that differ in exactly one byte position have different CRCs. -/
def Obligations.OneChangedByteChangesTheCrc : Prop :=
  ∀ (before after : Bytes) (a b : Byte), a ≠ b → crcOf (before ++ a :: after) ≠ crcOf (before ++ b :: after)

/-- R96: the Data checksum of sixteen 32-byte keys and two 32-byte OTP blocks is the CRC of all 576 bytes in write order,
the Config checksum that of all 88 bytes. -/
def Obligations.LockChecksumsCoverTheWholeImages : Prop :=
  (∀ keys otp : List Bytes, keys.length = 16 → otp.length = 2 → (∀ k ∈ keys, k.length = 32) → (∀ o ∈ otp, o.length = 32) →
    (keys.flatten ++ otp.flatten).length = 576 ∧
    dataLockChecksum keys otp = crcOf (keys.flatten ++ otp.flatten)) ∧
  ∀ image : Bytes, image.length = 88 → configLockChecksum image = crcOf image

/-! ## The codec unit -/

/-- R100: FRAME answers the frame of R66 and leaves it in `TX`; a payload that does not fit `FRAME_MAX` is
refused. What `TX` and the rest of the codec hold once the operation has ended is the model's choice (log 6). -/
def Obligations.FrameAnswersTheFrame : Prop :=
  ∀ (s : State) (opcode param1 : Byte) (param2 : Half) (payload : Bytes), quiet s.inputs = true →
    Selects 0x10 (.frame opcode param1 param2 payload) ∧
    (8 + payload.length ≤ s.params.frameMax →
      ∃ t, Ends (.frame opcode param1 param2 payload) s t (okBytes (frameOf opcode param1 param2 payload)) ∧
        t.codec = { s.codec with tx := frameOf opcode param1 param2 payload } ∧ t.hashUnit = s.hashUnit) ∧
    (s.params.frameMax < 8 + payload.length → Refuses (.frame opcode param1 param2 payload) s)

/-- R67 for frames the engine builds: under a legal `FRAME_MAX`, every frame FRAME can answer is well formed, its count
byte is its length minus one, and its length is at most 256. Which parameters are legal is partly the model's choice (logs
24, 26). -/
def Obligations.EveryBuiltFrameIsWellFormed : Prop :=
  ∀ (p : Params) (opcode param1 : Byte) (param2 : Half) (payload : Bytes),
    paramsLegal p = true → 8 + payload.length ≤ p.frameMax →
      frameWellFormed p (frameBytes opcode param1 param2 payload) = true ∧
      (frameBytes opcode param1 param2 payload).length = 8 + payload.length ∧
      ((frameBytes opcode param1 param2 payload).getD 1 0x00).toNat = 7 + payload.length ∧
      (frameBytes opcode param1 param2 payload).length ≤ 256

/-- R102: PARSE checks length, CRC and error envelope in this order and answers the status or data bytes; `RX`
holds the operand. What `RX` and the rest of the codec hold once the operation has ended is the model's choice
(log 6). That `RX` is written before the empty string is refused is log 10. -/
def Obligations.ParseChecksLengthThenCrcThenEnvelope : Prop :=
  ∀ (s : State) (rx : Bytes), quiet s.inputs = true →
    Selects 0x11 (.parse rx) ∧
    ∃ t, Ends (.parse rx) s t (parseOutcome rx) ∧ t.codec = { s.codec with rx := rx } ∧ t.hashUnit = s.hashUnit

/-- R69 and R103(a): a response built from 1 to 252 data bytes, a lone status byte being 0, parses to exactly those
bytes, whatever follows it. -/
def Obligations.ParseOfABuiltResponseIsItsData : Prop :=
  ∀ d padding : Bytes, 1 ≤ d.length → d.length ≤ 252 → (d.length = 1 → d = [0x00]) →
    parseResponse (responseOf d ++ padding) = okBytes d

/-- R94(e) at work in R102: a response with one data byte changed on its way is `CrcMismatch(0)`, never data and never a
chip error. -/
def Obligations.OneCorruptedDataByteIsACrcMismatch : Prop :=
  ∀ (before after padding : Bytes) (a b : Byte), a ≠ b → (before ++ a :: after).length ≤ 252 →
    parseResponse ((responseOf (before ++ a :: after)).set (before.length + 1) b ++ padding) = raised .crcMismatch 0x00

/-- R104: SEND writes its frame once, polls until a read returns bytes, and ends with their PARSE outcome; a bad
`expected_response_len` or a frame too long is refused and nothing is sent. What `TX`, `ATTEMPT` and `RX` hold
once the operation has ended is the model's choice (log 6). -/
def Obligations.SendWritesOnceAndPollsUntilBytes : Prop :=
  ∀ (s : State) (opcode param1 : Byte) (param2 : Half) (payload : Bytes) (n : Nat),
    Selects 0x12 (.send opcode param1 param2 payload n) ∧
    (4 ≤ n → n ≤ 255 → 8 + payload.length ≤ s.params.frameMax →
      RunsFrame (.send opcode param1 param2 payload n) (frameOf opcode param1 param2 payload) n none s) ∧
    (quiet s.inputs = true → (n < 4 ∨ 255 < n ∨ s.params.frameMax < 8 + payload.length) →
      Refuses (.send opcode param1 param2 payload n) s)

/-- R105: if the write is acknowledged and every read answers `Nack`, SEND makes exactly `POLL_MAX` reads and ends with
`NoResponse`; if the write itself is answered `Nack` it makes zero reads. -/
def Obligations.SendFailsAfterExactlyPollMaxReads : Prop :=
  ∀ (s : State) (opcode param1 : Byte) (param2 : Half) (payload : Bytes) (n : Nat) (rest : List Input),
    4 ≤ n → n ≤ 255 → 8 + payload.length ≤ s.params.frameMax → quiet rest = true →
    (s.inputs = .writeAnswer true :: (List.replicate s.params.pollMax (.readAnswer none) ++ rest) →
      ∃ t, exec (.send opcode param1 param2 payload n) s = .next t ∧
        t.delivered = s.delivered ++ [raised .noResponse 0x00] ∧
        t.wire = s.wire ++ .write (frameOf opcode param1 param2 payload) true ::
          List.replicate s.params.pollMax (.read n none)) ∧
    (s.inputs = .writeAnswer false :: rest →
      ∃ t, exec (.send opcode param1 param2 payload n) s = .next t ∧
        t.delivered = s.delivered ++ [raised .noResponse 0x00] ∧
        t.wire = s.wire ++ [.write (frameOf opcode param1 param2 payload) false])

/-- R50, R104, R106: whatever the transport answers and whatever arrives meanwhile, an instruction writes at most one
frame, reads only after an acknowledged write, at most `POLL_MAX` times, and stops at the first read that returns
bytes. -/
def Obligations.OneWriteThenAtMostPollMaxReads : Prop :=
  ∀ (i : Instr) (s t : State), exec i s = .next t →
    t.wire = s.wire ∨
    ∃ frame ack reads, t.wire = s.wire ++ .write frame ack :: reads ∧
      (ack = false → reads = []) ∧ reads.length ≤ s.params.pollMax ∧
      (∀ e ∈ reads, ∃ n a, e = .read n a) ∧ ∀ e ∈ reads.dropLast, ∃ n, e = .read n none

/-! ## The chip command set -/

/-- R122: CMD.READ sends `(zone | SZ, (block << 3) + offset)` and expects 4 or 32 bytes; a code of no zone, a
location of 2^16 or more, or a `FRAME_MAX` under 8 is refused. What `TX`, `ATTEMPT` and `RX` hold once the
operation has ended is the model's choice (log 6). -/
def Obligations.CmdReadSendsItsFrame : Prop :=
  ∀ (s : State) (zone : Byte) (block offset : Nat) (fourByte : Bool),
    Selects 0x20 (.cmdRead zone block offset fourByte) ∧
    (namesZone s.params zone → 8 * block + offset < 65536 → 8 ≤ s.params.frameMax →
      RunsFrame (.cmdRead zone block offset fourByte)
        (frameOf s.params.opcRead (zone ||| (if fourByte then 0x00 else 0x80)) (BitVec.ofNat 16 (8 * block + offset)) [])
        38 (some (if fourByte then 4 else 32)) s) ∧
    (quiet s.inputs = true → (¬ namesZone s.params zone ∨ 65536 ≤ 8 * block + offset ∨ s.params.frameMax < 8) →
      Refuses (.cmdRead zone block offset fourByte) s)

/-- R123: CMD.WRITE sends the data and the optional MAC with the size bit and the encrypted flag, and expects a
status byte. What `TX`, `ATTEMPT` and `RX` hold once the operation has ended is the model's choice (log 6). -/
def Obligations.CmdWriteSendsItsFrame : Prop :=
  ∀ (s : State) (zone : Byte) (block offset : Nat) (data : Bytes) (mac : Option Bytes) (encrypted : Bool),
    Selects 0x21 (.cmdWrite zone block offset data mac encrypted) ∧
    (namesZone s.params zone → 8 * block + offset < 65536 → (data.length = 4 ∨ data.length = 32) →
      (∀ m ∈ mac, m.length = 32) → 8 + (data ++ mac.getD []).length ≤ s.params.frameMax →
      RunsFrame (.cmdWrite zone block offset data mac encrypted)
        (frameOf s.params.opcWrite
          (zone ||| (if data.length = 32 then 0x80 else 0x00) ||| (if encrypted then s.params.wrEncFlag else 0x00))
          (BitVec.ofNat 16 (8 * block + offset)) (data ++ mac.getD []))
        38 (some 1) s) ∧
    (quiet s.inputs = true →
      (¬ namesZone s.params zone ∨ 65536 ≤ 8 * block + offset ∨ (data.length ≠ 4 ∧ data.length ≠ 32) ∨
        (∃ m ∈ mac, m.length ≠ 32) ∨ s.params.frameMax < 8 + (data ++ mac.getD []).length) →
      Refuses (.cmdWrite zone block offset data mac encrypted) s)

/-- R124: CMD.NONCE sends the input with `mode` in `param1`; at most 20 bytes in a combining mode and 32 in
pass-through; it expects a status byte in pass-through and a 32-byte seed otherwise. What `TX`, `ATTEMPT` and `RX`
hold once the operation has ended is the model's choice (log 6). -/
def Obligations.CmdNonceSendsItsFrame : Prop :=
  ∀ (s : State) (mode : Byte) (input : Bytes),
    Selects 0x22 (.cmdNonce mode input) ∧
    (input.length ≤ (if mode = 0x03 then 32 else 20) → 8 + input.length ≤ s.params.frameMax →
      RunsFrame (.cmdNonce mode input) (frameOf s.params.opcNonce mode 0x0000 input) 38
        (some (if mode = 0x03 then 1 else 32)) s) ∧
    (quiet s.inputs = true →
      ((if mode = 0x03 then 32 else 20) < input.length ∨ s.params.frameMax < 8 + input.length) →
      Refuses (.cmdNonce mode input) s)

/-- R125: CMD.GENDIG sends the zone code and the slot with the extra data and expects a status byte; a slot above
15 is refused. What `TX`, `ATTEMPT` and `RX` hold once the operation has ended is the model's choice (log 6). -/
def Obligations.CmdGendigSendsItsFrame : Prop :=
  ∀ (s : State) (zone : Byte) (slot : Nat) (extra : Bytes),
    Selects 0x23 (.cmdGendig zone slot extra) ∧
    (namesZone s.params zone → slot ≤ 15 → 8 + extra.length ≤ s.params.frameMax →
      RunsFrame (.cmdGendig zone slot extra) (frameOf s.params.opcGendig zone (BitVec.ofNat 16 slot) extra) 38
        (some 1) s) ∧
    (quiet s.inputs = true → (¬ namesZone s.params zone ∨ 15 < slot ∨ s.params.frameMax < 8 + extra.length) →
      Refuses (.cmdGendig zone slot extra) s)

/-- R126: CMD.MAC sends the flags and the slot with an empty or 32-byte challenge and expects 32 bytes. What `TX`,
`ATTEMPT` and `RX` hold once the operation has ended is the model's choice (log 6). -/
def Obligations.CmdMacSendsItsFrame : Prop :=
  ∀ (s : State) (slot : Nat) (challenge : Bytes) (flags : Byte),
    Selects 0x24 (.cmdMac slot challenge flags) ∧
    (slot ≤ 15 → (challenge.length = 0 ∨ challenge.length = 32) → 8 + challenge.length ≤ s.params.frameMax →
      RunsFrame (.cmdMac slot challenge flags) (frameOf s.params.opcMac flags (BitVec.ofNat 16 slot) challenge) 38
        (some 32) s) ∧
    (quiet s.inputs = true →
      (15 < slot ∨ (challenge.length ≠ 0 ∧ challenge.length ≠ 32) ∨ s.params.frameMax < 8 + challenge.length) →
      Refuses (.cmdMac slot challenge flags) s)

/-- R127: CMD.CHECKMAC sends challenge, response and other-data, 77 bytes, and expects a status byte. What `TX`,
`ATTEMPT` and `RX` hold once the operation has ended is the model's choice (log 6). -/
def Obligations.CmdCheckmacSendsItsFrame : Prop :=
  ∀ (s : State) (slot : Nat) (challenge response otherData : Bytes) (flags : Byte),
    Selects 0x25 (.cmdCheckmac slot challenge response otherData flags) ∧
    (slot ≤ 15 → challenge.length = 32 → response.length = 32 → otherData.length = 13 → 85 ≤ s.params.frameMax →
      RunsFrame (.cmdCheckmac slot challenge response otherData flags)
        (frameOf s.params.opcCheckmac flags (BitVec.ofNat 16 slot) (challenge ++ response ++ otherData)) 38 (some 1) s) ∧
    (quiet s.inputs = true →
      (15 < slot ∨ challenge.length ≠ 32 ∨ response.length ≠ 32 ∨ otherData.length ≠ 13 ∨ s.params.frameMax < 85) →
      Refuses (.cmdCheckmac slot challenge response otherData flags) s)

/-- R128: CMD.LOCK sends its two flags and the checksum with no payload and expects a status byte. What `TX`,
`ATTEMPT` and `RX` hold once the operation has ended is the model's choice (log 6). -/
def Obligations.CmdLockSendsItsFrame : Prop :=
  ∀ (s : State) (isData : Bool) (checksum : Half) (skipChecksum : Bool),
    Selects 0x26 (.cmdLock isData checksum skipChecksum) ∧
    (8 ≤ s.params.frameMax →
      RunsFrame (.cmdLock isData checksum skipChecksum)
        (frameOf s.params.opcLock
          ((if isData then s.params.lockZoneData else 0x00) ||| (if skipChecksum then s.params.lockSkipFlag else 0x00))
          checksum [])
        38 (some 1) s) ∧
    (quiet s.inputs = true → s.params.frameMax < 8 → Refuses (.cmdLock isData checksum skipChecksum) s)

/-! ## The hash unit -/

/-- R141: the padded message is the message, `0x80`, `k` zero bytes and the bit length as 8 bytes, most significant first;
it has `N` whole 64-byte blocks, and `k` is the smallest number that makes it so. -/
def Obligations.PaddingIsTheShortestToWholeBlocks : Prop :=
  (∀ msg : Bytes, ∃ len64 : Bytes,
    pad msg = msg ++ [0x80] ++ List.replicate (padZeros msg.length) 0x00 ++ len64 ∧ len64.length = 8 ∧
    (∀ i, i < 8 → len64.getD i 0x00 = BitVec.ofNat 8 (8 * msg.length / 256 ^ (7 - i))) ∧
    (pad msg).length = 64 * blockCount msg.length) ∧
  ∀ l : Nat, (l + 1 + padZeros l + 8) % 64 = 0 ∧ ∀ k, (l + 1 + k + 8) % 64 = 0 → padZeros l ≤ k

/-- R142, R143: the compression of a 64-byte block. The schedule has 64 words, the first 16 read from the block most
significant byte first, each later one by the recurrence; the 64 rounds run in order from `H` with `K[t]` and `W[t]`; each
result word is `H[i] +32` the working variable. -/
def Obligations.CompressionFollowsItsPseudocode : Prop :=
  ∀ (h : Eight) (block : Bytes), block.length = 64 →
    (schedule block).length = 64 ∧
    (∀ t, t < 16 → (schedule block).getD t 0 =
      block.getD (4 * t) 0x00 ++ block.getD (4 * t + 1) 0x00 ++ block.getD (4 * t + 2) 0x00 ++
        block.getD (4 * t + 3) 0x00) ∧
    (∀ t, 16 ≤ t → t < 64 →
      let w15 := (schedule block).getD (t - 15) 0
      let w2 := (schedule block).getD (t - 2) 0
      (schedule block).getD t 0 =
        (schedule block).getD (t - 16) 0 +
        (w15.rotateRight 7 ^^^ w15.rotateRight 18 ^^^ w15 >>> 3) +
        (schedule block).getD (t - 7) 0 +
        (w2.rotateRight 17 ^^^ w2.rotateRight 19 ^^^ w2 >>> 10)) ∧
    (let v := (List.range 64).foldl (fun v t => roundOf v (roundConstants.getD t 0) ((schedule block).getD t 0)) h
     compress h block = ⟨h.x0 + v.x0, h.x1 + v.x1, h.x2 + v.x2, h.x3 + v.x3, h.x4 + v.x4, h.x5 + v.x5, h.x6 + v.x6,
       h.x7 + v.x7⟩)

/-- R140, R146: SHA256 answers the digest of its operand, 32 bytes: the chaining value starts from `H_init`, runs over the
blocks in order and is written out `H[0]` first. The operand has fewer than 2^61 bytes. That `MSG` is not
used (log 19) and what `DIGEST` holds once the operation has ended (log 6) are the model's. -/
def Obligations.Sha256AnswersTheDigest : Prop :=
  ∀ (s : State) (msg : Bytes), quiet s.inputs = true → msg.length < 2 ^ 61 →
    Selects 0x30 (.sha256 msg) ∧
    ∃ t, Ends (.sha256 msg) s t (okBytes (sha256 msg)) ∧ (sha256 msg).length = 32 ∧
      (let h := (List.range (blockCount msg.length)).foldl (fun h j => compress h (((pad msg).drop (64 * j)).take 64))
          ⟨0x6a09e667, 0xbb67ae85, 0x3c6ef372, 0xa54ff53a, 0x510e527f, 0x9b05688c, 0x1f83d9ab, 0x5be0cd19⟩;
        sha256 msg = be32 h.x0 ++ be32 h.x1 ++ be32 h.x2 ++ be32 h.x3 ++ be32 h.x4 ++ be32 h.x5 ++ be32 h.x6 ++
          be32 h.x7) ∧
      t.hashUnit.digest = sha256 msg ∧ t.hashUnit.msg = s.hashUnit.msg ∧ t.crcUnit = s.crcUnit ∧ t.codec = s.codec

/-- R147(a), (b) and R141: the standard answers and the padding lengths the spec lists. -/
def Obligations.Sha256GivesTheStandardAnswers : Prop :=
  sha256 [] =
    [0xE3, 0xB0, 0xC4, 0x42, 0x98, 0xFC, 0x1C, 0x14, 0x9A, 0xFB, 0xF4, 0xC8, 0x99, 0x6F, 0xB9, 0x24,
     0x27, 0xAE, 0x41, 0xE4, 0x64, 0x9B, 0x93, 0x4C, 0xA4, 0x95, 0x99, 0x1B, 0x78, 0x52, 0xB8, 0x55] ∧
  sha256 [0x61, 0x62, 0x63] =
    [0xBA, 0x78, 0x16, 0xBF, 0x8F, 0x01, 0xCF, 0xEA, 0x41, 0x41, 0x40, 0xDE, 0x5D, 0xAE, 0x22, 0x23,
     0xB0, 0x03, 0x61, 0xA3, 0x96, 0x17, 0x7A, 0x9C, 0xB4, 0x10, 0xFF, 0x61, 0xF2, 0x00, 0x15, 0xAD] ∧
  padZeros 96 = 23 ∧ padZeros 88 = 31 ∧ padZeros 55 = 0 ∧ padZeros 35 = 20 ∧ padZeros 56 = 63

/-! ## The key and MAC chains -/

/-- R151: DERIVEKEY hashes the 96-byte message with the literals `EE 01 23`; other operands are refused. What
`MSG` and `DIGEST` hold once the operation has ended is the model's choice (log 6). -/
def Obligations.DerivekeyHashesItsLayout : Prop :=
  ∀ (s : State) (rootKey : Bytes) (targetSlot : Nat) (serial : Bytes), quiet s.inputs = true →
    Selects 0x31 (.derivekey rootKey targetSlot serial) ∧
    (rootKey.length = 32 → targetSlot < 65536 → serial.length = 9 →
      let msg := rootKey ++ [0x1C, 0x04, BitVec.ofNat 8 targetSlot, BitVec.ofNat 8 (targetSlot / 256)] ++
        [0xEE, 0x01, 0x23] ++ List.replicate 25 0x00 ++ serial ++ List.replicate 23 0x00
      msg.length = 96 ∧ AnswersHash (.derivekey rootKey targetSlot serial) s msg) ∧
    (rootKey.length ≠ 32 ∨ 65536 ≤ targetSlot ∨ serial.length ≠ 9 → Refuses (.derivekey rootKey targetSlot serial) s)

/-- R152: NONCEMIX answers the input verbatim in pass-through and hashes `nonce_seed ++ input ++ [0x16, mode,
0x00]` otherwise; other operands are refused. What `MSG` and `DIGEST` hold once the operation has ended is the
model's choice (log 6). -/
def Obligations.NoncemixHashesOrPassesThrough : Prop :=
  ∀ (s : State) (nonceSeed input : Bytes) (mode : Byte), quiet s.inputs = true →
    Selects 0x32 (.noncemix nonceSeed input mode) ∧
    (nonceSeed.length = 32 → mode = 0x03 → input.length ≤ 32 → AnswersBytes (.noncemix nonceSeed input mode) s input) ∧
    (nonceSeed.length = 32 → mode ≠ 0x03 → input.length ≤ 20 →
      AnswersHash (.noncemix nonceSeed input mode) s (nonceSeed ++ input ++ [0x16, mode, 0x00])) ∧
    (nonceSeed.length ≠ 32 ∨ (if mode = 0x03 then 32 else 20) < input.length →
      Refuses (.noncemix nonceSeed input mode) s)

/-- R153: SESSKEY hashes the 96-byte message with the three serial bytes of the operand; other operands are
refused. What `MSG` and `DIGEST` hold once the operation has ended is the model's choice (log 6). -/
def Obligations.SesskeyHashesItsLayout : Prop :=
  ∀ (s : State) (slotKey : Bytes) (slot : Nat) (serial chipNonce : Bytes), quiet s.inputs = true →
    Selects 0x33 (.sesskey slotKey slot serial chipNonce) ∧
    (slotKey.length = 32 → slot ≤ 15 → serial.length = 9 → chipNonce.length = 32 →
      let msg := slotKey ++
        [0x15, 0x02, BitVec.ofNat 8 slot, 0x00, serial.getD 8 0x00, serial.getD 0 0x00, serial.getD 1 0x00] ++
        List.replicate 25 0x00 ++ chipNonce
      msg.length = 96 ∧ AnswersHash (.sesskey slotKey slot serial chipNonce) s msg) ∧
    (slotKey.length ≠ 32 ∨ 15 < slot ∨ serial.length ≠ 9 ∨ chipNonce.length ≠ 32 →
      Refuses (.sesskey slotKey slot serial chipNonce) s)

/-- R154: XOR32 answers `r[i] = a[i] ^ b[i]` for `i` in 0..31; other lengths are refused. That every working
register keeps its content is the model's choice (log 6). -/
def Obligations.Xor32XorsLaneByLane : Prop :=
  ∀ (s : State) (a b : Bytes), quiet s.inputs = true →
    Selects 0x34 (.xor32 a b) ∧
    (a.length = 32 → b.length = 32 →
      ∃ r, AnswersBytes (.xor32 a b) s r ∧ r.length = 32 ∧
        ∀ i, i < 32 → r.getD i 0x00 = a.getD i 0x00 ^^^ b.getD i 0x00) ∧
    (a.length ≠ 32 ∨ b.length ≠ 32 → Refuses (.xor32 a b) s)

/-- R154: XOR-ing twice with one session key gives the plaintext back; a string with itself gives zeros. -/
def Obligations.XorBytesIsItsOwnInverse : Prop :=
  ∀ p s : Bytes, p.length = s.length →
    xorBytes (xorBytes p s) s = p ∧ xorBytes p p = List.replicate p.length 0x00 ∧
    xorBytes p (List.replicate p.length 0x00) = p

/-- R155: WRMAC hashes the 96-byte message with `addr = slot << 3`; other operands are refused. What `MSG` and
`DIGEST` hold once the operation has ended is the model's choice (log 6). -/
def Obligations.WrmacHashesItsLayout : Prop :=
  ∀ (s : State) (sessionKey : Bytes) (slot : Nat) (serial plaintext : Bytes), quiet s.inputs = true →
    Selects 0x35 (.wrmac sessionKey slot serial plaintext) ∧
    (sessionKey.length = 32 → slot ≤ 15 → serial.length = 9 → plaintext.length = 32 →
      let msg := sessionKey ++
        [0x12, 0x82, BitVec.ofNat 8 (8 * slot), 0x00, serial.getD 8 0x00, serial.getD 0 0x00, serial.getD 1 0x00] ++
        List.replicate 25 0x00 ++ plaintext
      msg.length = 96 ∧ AnswersHash (.wrmac sessionKey slot serial plaintext) s msg) ∧
    (sessionKey.length ≠ 32 ∨ 15 < slot ∨ serial.length ≠ 9 ∨ plaintext.length ≠ 32 →
      Refuses (.wrmac sessionKey slot serial plaintext) s)

/-- R157: MACRESP hashes key, challenge and the other-data interleaved by `OD_LAYOUT`, whatever that parameter is;
other operands are refused. What `MSG` and `DIGEST` hold once the operation has ended is the model's choice (log
6). -/
def Obligations.MacrespHashesKeyChallengeOtherData : Prop :=
  ∀ (s : State) (key challenge otherData : Bytes), quiet s.inputs = true →
    Selects 0x36 (.macresp key challenge otherData) ∧
    (key.length = 32 → challenge.length = 32 → otherData.length = 13 →
      AnswersHash (.macresp key challenge otherData) s
        (key ++ challenge ++ interleave s.params.odLayout otherData)) ∧
    (key.length ≠ 32 ∨ challenge.length ≠ 32 ∨ otherData.length ≠ 13 → Refuses (.macresp key challenge otherData) s)

/-- R158: under the default `OD_LAYOUT` (named here, log 12) the 13 other-data bytes are interleaved to 24 bytes. -/
def Obligations.DefaultOdLayoutInterleavesTo24Bytes : Prop :=
  ∀ od : Bytes, od.length = 13 →
    interleave defaultOdLayout od =
      od.take 4 ++ List.replicate 8 0x00 ++ (od.drop 4).take 3 ++ [0xEE] ++ (od.drop 7).take 4 ++ [0x01, 0x23] ++
        (od.drop 11).take 2 ∧
    (interleave defaultOdLayout od).length = 24

/-- R159: VALIDATE answers MACRESP of the derived key and the chip nonce, with the validator's other-data; other
operands are refused. What `MSG` and `DIGEST` hold once the operation has ended is the model's choice (log 6).
That a pass-through input of a wrong length is refused before any hash is log 23. -/
def Obligations.ValidateComposesTheChains : Prop :=
  ∀ (s : State) (serial deviceRandom challengeInput rootKey : Bytes) (slot : Nat) (mode : Byte), quiet s.inputs = true →
    Selects 0x37 (.validate serial deviceRandom challengeInput rootKey slot mode) ∧
    (serial.length = 9 → deviceRandom.length = 32 → rootKey.length = 32 → slot ≤ 15 →
      (if mode = 0x03 then challengeInput.length = 32 else challengeInput.length ≤ 20) →
      AnswersHash (.validate serial deviceRandom challengeInput rootKey slot mode) s
        (sha256 (rootKey ++ [0x1C, 0x04, BitVec.ofNat 8 slot, 0x00] ++ [0xEE, 0x01, 0x23] ++ List.replicate 25 0x00 ++
            serial ++ List.replicate 23 0x00) ++
          (if mode = 0x03 then challengeInput
            else sha256 (deviceRandom ++ challengeInput ++ [0x16, mode, 0x00])) ++
          interleave s.params.odLayout ([0x08, 0x01, BitVec.ofNat 8 slot] ++ List.replicate 10 0x00))) ∧
    (serial.length ≠ 9 ∨ deviceRandom.length ≠ 32 ∨ rootKey.length ≠ 32 ∨ 15 < slot ∨
        (if mode = 0x03 then challengeInput.length ≠ 32 else 20 < challengeInput.length) →
      Refuses (.validate serial deviceRandom challengeInput rootKey slot mode) s)

/-- R161, R162, R154: what ENCWRITE encrypts, ENCREAD under the same nonce decrypts: the last line of ENCREAD, run on the
ciphertext of ENCWRITE's XOR32 line, answers the plaintext. That every working register keeps its content is the model's
choice (log 6). -/
def Obligations.EncreadDecryptsWhatEncwriteEncrypts : Prop :=
  ∀ (p : Params) (slot k : Nat) (keyK serial input pt r : Bytes) (mode : Byte) (enc : Bool) (s : State),
    pt.length = 32 → quiet s.inputs = true →
    ∃ ct, (encwrite p slot k keyK serial mode input pt enc r).getD 4 (.sha256 []) =
        .xor32 pt (sequenceKey k keyK serial mode input r) ∧
      AnswersBytes (.xor32 pt (sequenceKey k keyK serial mode input r)) s ct ∧
      (encread p slot k keyK serial mode input r ct).getLast? = some (.xor32 ct (sequenceKey k keyK serial mode input r)) ∧
      AnswersBytes (.xor32 ct (sequenceKey k keyK serial mode input r)) s pt

/-! ## Frames and responses on the transport -/

/-- R66, R104, R120, R121: a command frame on the transport is written as it stands, and its command goes on as
R104 says, with the data length R121 gives its command. That a frame row runs so is the model's choice (log 7).
What `TX`, `ATTEMPT` and `RX` hold once the operation has ended is the model's choice (log 6). -/
def Obligations.WireFramesRunTheirCommand : Prop :=
  ∀ (s : State) (f : Frame),
    RunsFrame (.wireRead f) (rawFrame s.params.opcRead f) 38 (some (if f.param1.getLsbD 7 then 32 else 4)) s ∧
    RunsFrame (.wireWrite f) (rawFrame s.params.opcWrite f) 38 (some 1) s ∧
    RunsFrame (.wireNonce f) (rawFrame s.params.opcNonce f) 38 (some (if f.param1 = 0x03 then 1 else 32)) s ∧
    RunsFrame (.wireGendig f) (rawFrame s.params.opcGendig f) 38 (some 1) s ∧
    RunsFrame (.wireMac f) (rawFrame s.params.opcMac f) 38 (some 32) s ∧
    RunsFrame (.wireCheckmac f) (rawFrame s.params.opcCheckmac f) 38 (some 1) s ∧
    RunsFrame (.wireLock f) (rawFrame s.params.opcLock f) 38 (some 1) s

/-- R69, R102, R121: a response in `RX` ends the operation in flight with its PARSE outcome, after the length
check of that operation. That the response row runs so is the model's choice (log 7). What `RX` and the rest of
the codec hold once the operation has ended is the model's choice (log 6). -/
def Obligations.ResponseEndsTheOperationInFlight : Prop :=
  ∀ (s : State) (len : Byte) (rest : Bytes), quiet s.inputs = true →
    ∃ t, Ends (.response len rest) s t (commandOutcome s.codec.dataLen (len :: rest)) ∧
      t.codec = { s.codec with rx := len :: rest } ∧ t.hashUnit = s.hashUnit

/-- R85, R120: under legal parameters, each well-formed command is its own frame on the transport: the frame decodes to a
well-formed WIRE instruction that runs as the command does. That the frame rows run so is the model's choice (log 7), and
so is what the CRC unit holds once the operation has ended (log 6). That legal parameters have distinct opcodes and zone
codes is the model's choice too (log 26). -/
def Obligations.EachCommandRunsAsItsWireFrame : Prop :=
  ∀ (i : Instr) (s : State), paramsLegal s.params = true → isCommand i = true → wellFormed s.params i = true →
    (∀ c p1 p2 pl n, i ≠ .send c p1 p2 pl n) →
    ∃ frame j, decodeFrame s.params frame = .ok j ∧ wellFormed s.params j = true ∧
      exec i s = exec j { s with crcUnit := crcAfter frame 1 (frame.length - 3) }

/-! ## Encoding -/

/-- R61, R66, R69, R85: under legal parameters, decoding the encoding of an instruction gives it back, for every
instruction and every operand. The kinds of the operands are those of log 13. That legal parameters have distinct opcodes
and zone codes is the model's choice (log 26). -/
def Obligations.DecodeOfEncodeIsTheInstruction : Prop :=
  ∀ (p : Params) (i : Instr), paramsLegal p = true → decode p (encode p i) = .ok i

/-- R61, R66, R69, R85: what decodes to an instruction is that instruction's encoding, so no two instructions share a
code and no bit of a code is ignored. The kinds of the operands are those of log 13. -/
def Obligations.EncodeOfDecodeIsTheCode : Prop :=
  ∀ (p : Params) (c : Code) (i : Instr), decode p c = .ok i → encode p i = c

/-- R61, R66, R72, R85: a few codes written out from the spec's tables decode to the instructions they stand for. The kinds
of the operands are those of log 13. The frame is decoded under the default parameters, whose `OPC_READ = 0x02` the spec
takes from general knowledge (R72; log 3, PRESUMED). -/
def Obligations.WrittenOutCodesDecode : Prop :=
  decodeRequest ⟨0x01, [.bytes [0x04, 0x11], .nat 0, .nat 2]⟩ = .ok (.crc16 [0x04, 0x11] 0 2) ∧
  decodeRequest ⟨0x20, [.u8 0x02, .nat 5, .nat 0, .bool false]⟩ = .ok (.cmdRead 0x02 5 0 false) ∧
  decodeRequest ⟨0x34, [.bytes [0x01], .bytes [0x02]]⟩ = .ok (.xor32 [0x01] [0x02]) ∧
  decodeFrame (defaultParams 1 256) [0x03, 0x07, 0x02, 0x82, 0x28, 0x00, 0x0A, 0x50] =
    .ok (.wireRead { count := 0x07, param1 := 0x82, param2 := 0x0028, payload := [], crc := 0x500A }) ∧
  decodeResponse [0x04, 0x00, 0x03, 0x40] = .ok (.response 0x04 [0x00, 0x03, 0x40])

/-! ## The machine -/

/-- R62: a request with an unassigned `opsel` is refused with `BadOpsel`: nothing is sent and no unit changes. -/
def Obligations.UnassignedOpselIsRefusedWithBadOpsel : Prop :=
  ∀ (s : State) (r : Request) (rest : List Input), s.stage = .idle → s.busy = false → s.inputs = .request r :: rest →
    quiet rest = true →
    r.opsel.toNat ∉ assignedOpsels →
    step s = .next { s with inputs := rest, delivered := s.delivered ++ [raised .badOpsel 0x00] }

/-- R175: a request that arrives while an instruction runs is refused with `Busy` and the running operation is not
disturbed, wherever among its inputs the arrival stands: before its first event, between the `TxWrite` and a `TxRead`,
between two `TxRead`s, or between the successful read and delivery; where arrivals land is the model's choice (log 9).
(1) If the operation takes all the inputs before the arrival (and no reset among them ends it), it ends as it would have
without the arrival, with one `Busy` more among what is delivered. (2) If it ends before it comes to the arrival, the
arrival is still to come and nothing else differs. (3) The accept check itself, which reads `BUSY`; in this model, whose
steps run an operation to its end, no run reaches an idle engine with `BUSY = 1`. -/
def Obligations.ArrivingRequestDoesNotDisturbTheOperation : Prop :=
  (∀ (i : Instr) (s : State) (before after : List Input) (r : Request),
    ∃ t t', exec i { s with inputs := before ++ after } = .next t ∧
      exec i { s with inputs := before ++ .during (.request r) :: after } = .next t' ∧
      (t.inputs.length ≤ after.length → .during .reset ∉ before →
        ∃ x y, t.delivered = s.delivered ++ x ++ y ∧
          t' = { t with delivered := s.delivered ++ x ++ [raised .busy 0x00] ++ y }) ∧
      (after.length < t.inputs.length ∨ .during .reset ∈ before →
        ∃ left, t.inputs = left ++ after ∧ t' = { t with inputs := left ++ .during (.request r) :: after })) ∧
  ∀ (s : State) (r : Request) (rest : List Input), s.stage = .idle → s.busy = true → s.inputs = .request r :: rest →
    step s = .next { s with inputs := rest, delivered := s.delivered ++ [raised .busy 0x00] }

/-- R191: a reset while an instruction runs, before any transport access, abandons it: no response, nothing sent, the
parameters and the rest of the inputs untouched, the engine idle. Where an arrival lands is the model's choice (log 9). -/
def Obligations.ResetAbandonsTheOperation : Prop :=
  ∀ (i : Instr) (s : State) (rest : List Input), s.inputs = .during .reset :: rest →
    ∃ t, exec i s = .next t ∧ t.busy = false ∧ t.stage = .idle ∧ t.delivered = s.delivered ∧ t.wire = s.wire ∧
      t.params = s.params ∧ t.inputs = rest

/-- R191, R197: a reset after the write of a SEND, of a `CMD.*` or of a frame: the frame has gone out all the same and no
response is delivered. The reset lands after the write was acknowledged and `k` reads were answered `Nack`, `k` from 0 to
`POLL_MAX`; after the read that returned bytes; or after the write was answered `Nack`. Where a reset lands is the model's
choice (log 9), and so are the frame rows (log 7). -/
def Obligations.ResetAfterTheWriteLeavesTheFrameSent : Prop :=
  ∀ (i : Instr) (s : State) (frame : Bytes) (n : Nat) (rest : List Input),
    sentBy s.params i = some (frame, n) → (isRequest i = true → wellFormed s.params i = true) →
    (∀ k, k ≤ s.params.pollMax →
      s.inputs = .writeAnswer true :: (List.replicate k (.readAnswer none) ++ .during .reset :: rest) →
      AbandonedAfter i s (.write frame true :: List.replicate k (.read n none)) rest) ∧
    (∀ (k : Nat) (rx : Bytes), k < s.params.pollMax → rx.length = n →
      s.inputs = .writeAnswer true ::
        (List.replicate k (.readAnswer none) ++ .readAnswer (some rx) :: .during .reset :: rest) →
      AbandonedAfter i s (.write frame true :: (List.replicate k (.read n none) ++ [.read n (some rx)])) rest) ∧
    (s.inputs = .writeAnswer false :: .during .reset :: rest → AbandonedAfter i s [.write frame false] rest)

/-- R30, R190: after reset `BUSY = 0`, no operation is in flight and no response is pending; nothing has been sent. -/
def Obligations.ResetStateIsIdle : Prop :=
  State.reset.busy = false ∧ State.reset.stage = .idle ∧ State.reset.delivered = [] ∧ State.reset.wire = [] ∧
  State.reset.inputs = []

/-- R30, R190: a reset of the idle engine leaves it idle with `BUSY = 0` and touches neither `POLL_MAX` and the other
parameters nor anything outside the engine. -/
def Obligations.ResetTouchesNoParameterAndNoChip : Prop :=
  ∀ (s : State) (rest : List Input), s.stage = .idle → s.inputs = .reset :: rest →
    ∃ t, step s = .next t ∧ t.busy = false ∧ t.stage = .idle ∧ t.params = s.params ∧ t.wire = s.wire ∧
      t.delivered = s.delivered ∧ t.inputs = rest

/-- R24, R192: creating a session sets `POLL_MAX` and no other parameter. That it leaves the engine idle with the working
registers at their values after reset, and that the illegal value 0 opens no session and changes nothing, are the model's
choices (log 14). -/
def Obligations.OpeningASessionSetsPollMax : Prop :=
  ∀ (s : State) (rest : List Input), s.stage = .idle →
    (∀ n, 1 ≤ n → s.inputs = .openSession n :: rest →
      ∃ t, step s = .next t ∧ t.params = { s.params with pollMax := n } ∧ t.wire = s.wire ∧ t.delivered = s.delivered ∧
        t.inputs = rest ∧ t.freeCount = s.freeCount ∧ t.busy = false ∧ t.stage = .idle ∧
        t.crcUnit = State.reset.crcUnit ∧ t.hashUnit = State.reset.hashUnit ∧ t.codec = State.reset.codec) ∧
    (s.inputs = .openSession 0 :: rest → step s = .next { s with inputs := rest })

/-- R21, R24, R104, R120: a step runs the decoded instruction. (1) The idle engine with `BUSY = 0` takes the request at
the head of its inputs: `BUSY` is set and the instruction runs. (2) A command in flight runs the frame in `TX`. (3) An
operation whose read returned bytes runs the response in `RX`. Requests as inputs and the frame and response rows as inner
points of an operation are the model's choices (logs 1, 7). -/
def Obligations.StepRunsTheDecodedInstruction : Prop :=
  ∀ (s : State) (i : Instr),
    (∀ r rest, s.stage = .idle → s.busy = false → s.inputs = .request r :: rest → decodeRequest r = .ok i →
      step s = exec i { s with inputs := rest, busy := true }) ∧
    (s.stage = .framed → s.codec.dataLen ≠ none → decodeFrame s.params s.codec.tx = .ok i → step s = exec i s) ∧
    (s.stage = .received → decodeResponse s.codec.rx = .ok i → step s = exec i s)

/-- R131, R170: every step of the machine, from every state, answers a next state: no operation stops the machine. -/
def Obligations.EveryStepAnswersNext : Prop :=
  ∀ s : State, ∃ t, step s = .next t

/-- R24, R170, R171: an instruction ends in exactly one outcome: after the `Busy` refusals of what arrived meanwhile, one
response with legal values is delivered, unless a reset arrived. Where arrivals land is the model's choice (log 9). -/
def Obligations.EveryInstructionEndsInOneOutcome : Prop :=
  ∀ (i : Instr) (s t : State), exec i s = .next t →
    t.busy = false ∧ t.stage = .idle ∧
    ∃ k, (∃ r, t.delivered = s.delivered ++ List.replicate k (raised .busy 0x00) ++ [r] ∧ responseLegal r = true ∧
        r.kind ≠ .busy ∧ r.kind ≠ .badOpsel) ∨
      (.during .reset ∈ s.inputs ∧ t.delivered = s.delivered ++ List.replicate k (raised .busy 0x00))

/-- R174: an operation is refused with `BadOperand`, nothing sent and no working register changed, exactly when an operand
lies outside the domain its rule states; only PARSE of the empty string has put its operand into `RX` by then, as the
pseudocode of R102 does (log 10). That VALIDATE in pass-through refuses an input of other than 32 bytes before its first
hash, where the pseudocode of R159 checks it after, is the model's inference from R150 and R174 (log 23). The domain of
SHA256 is that of log 11. A request with an assigned `opsel` whose
operands are not in the number and kinds of its operation is answered `BadOperand` too, and nothing else changes; that
outcome is the model's choice (log 13). -/
def Obligations.BadOperandExactlyWhenIllFormed : Prop :=
  (∀ (i : Instr) (s : State), isRequest i = true → quiet s.inputs = true →
    (wellFormed s.params i = false →
      ∃ t, Ends i s t (raised .badOperand 0x00) ∧ t.crcUnit = s.crcUnit ∧ t.hashUnit = s.hashUnit ∧
        t.codec = if i = .parse [] then { s.codec with rx := [] } else s.codec) ∧
    (wellFormed s.params i = true → ∀ t, exec i s = .next t → raised .badOperand 0x00 ∉ t.delivered.drop s.delivered.length)) ∧
  ∀ (s : State) (r : Request) (rest : List Input), s.stage = .idle → s.busy = false → s.inputs = .request r :: rest →
    quiet rest = true → r.opsel.toNat ∈ assignedOpsels → (∀ i, decodeRequest r ≠ .ok i) →
    step s = .next { s with inputs := rest, delivered := s.delivered ++ [raised .badOperand 0x00] }

/-- R150, R183, R196: the pure operations touch nothing shared: no transport event, no free value, no parameter; of the
inputs only what arrives meanwhile is taken. -/
def Obligations.PureOperationsTouchNothingShared : Prop :=
  ∀ (i : Instr) (s t : State), isPure i = true → exec i s = .next t →
    t.wire = s.wire ∧ t.freeCount = s.freeCount ∧ t.params = s.params ∧ (quiet s.inputs = true → t.inputs = s.inputs)

/-- R20, R25, R26 to R28: the working registers of a unit are written only by the operations that use it: with no
arrival, an operation of the hash unit leaves the CRC unit and the codec as they were, CRC16 leaves the hash unit and
the codec, and an operation of the codec or a command leaves the hash unit, unless a reset arrives. That a register keeps its content
across operations that do not use it is the model's choice (log 6; the spec leaves it unspecified). -/
def Obligations.UnitsNotUsedAreUnchanged : Prop :=
  ∀ (i : Instr) (s t : State), .during .reset ∉ s.inputs → exec i s = .next t →
    (isCommand i = true ∨ isRequest i = false → t.hashUnit = s.hashUnit) ∧
    (∀ c p1 p2 pl, i = .frame c p1 p2 pl → t.hashUnit = s.hashUnit ∧ t.codec.rx = s.codec.rx) ∧
    (∀ rx, i = .parse rx → t.hashUnit = s.hashUnit ∧ t.codec.tx = s.codec.tx) ∧
    (∀ b o l, i = .crc16 b o l → t.hashUnit = s.hashUnit ∧ t.codec = s.codec) ∧
    (isPure i = true → (∀ c p1 p2 pl, i ≠ .frame c p1 p2 pl) → (∀ rx, i ≠ .parse rx) → (∀ b o l, i ≠ .crc16 b o l) →
      t.crcUnit = s.crcUnit ∧ t.codec = s.codec)

/-- R24, R40: what left the engine stays left: every step only adds to the responses delivered and to the transport
stream, and no step but the opening of a session changes a parameter. -/
def Obligations.StepOnlyAddsToWhatLeftTheEngine : Prop :=
  ∀ s t : State, step s = .next t →
    s.delivered <+: t.delivered ∧ s.wire <+: t.wire ∧
    ((∀ n, s.inputs.head? ≠ some (.openSession n)) → t.params = s.params)

/-- The invariant of the machine holds after reset (R24, R27, R28, R30); the values of the parameters and of the working
registers after reset are the model's (logs 3, 4, 5), and so is part of what makes parameters legal (logs 24, 26). -/
def Obligations.InvariantHoldsAfterReset : Prop := Invariant State.reset

/-- R24, R27, R28, R30, R44: every step from every state with the invariant keeps it: legal parameters, `BUSY` agreeing
with the operation in flight, `ATTEMPT` at most `POLL_MAX`, `TX` within `FRAME_MAX`, `MSG` within 96 bytes, `W` of 64
words, `DIGEST` of 32 bytes, every response legal, every transport event one the engine can make. Which parameters are
legal is partly the model's choice (logs 24, 26). -/
def Obligations.EveryStepKeepsTheInvariant : Prop :=
  ∀ s t : State, Invariant s → step s = .next t → Invariant t

/-- R20, R25, R26, R30, R190: the working registers are unobservable: two idle states that differ only in them take steps
to idle states that differ only in them, so no response and no transport event depends on what an earlier operation
left, in any number of steps. -/
def Obligations.WorkingRegistersAreUnobservable : Prop :=
  ∀ s t : State, s.stage = .idle → observe s = observe t →
    ∃ s' t', step s = .next s' ∧ step t = .next t' ∧ observe s' = observe t' ∧ s'.stage = .idle ∧ t'.stage = .idle
end

