-- ==== Sys2Proof/Laws/Bits.lean ====
section
/-! SUPPORT. Small facts about the byte-order helpers, slices, and the CRC as a linear map. -/

namespace Sys2Proof

@[simp] theorem low_half (lo hi : Byte) : low (half lo hi) = lo := by
  apply BitVec.eq_of_getLsbD_eq; intro i hi'
  have h1 : i < 16 := by omega
  simp [low, half, hi', h1]

@[simp] theorem high_half (lo hi : Byte) : high (half lo hi) = hi := by
  apply BitVec.eq_of_getLsbD_eq; intro i hi'
  have h1 : 8 + i < 16 := by omega
  simp [high, half, hi', h1]

@[simp] theorem half_low_high (v : Half) : half (low v) (high v) = v := by
  apply BitVec.eq_of_getLsbD_eq; intro i hi'
  by_cases h : i < 8
  · simp [low, high, half, h, hi']
  · have h1 : 8 + (i - 8) = i := by omega
    have h2 : i - 8 < 8 := by omega
    simp [low, high, half, h, hi', h1, h2]

@[simp] theorem zeros_length (n : Nat) : (zeros n).length = n := by simp [zeros]

@[simp] theorem be32_length (v : Word) : (be32 v).length = 4 := rfl

@[simp] theorem be64_length (v : Nat) : (be64 v).length = 8 := rfl

@[simp] theorem digestOf_length (h : Eight) : (digestOf h).length = 32 := rfl

@[simp] theorem sha256_length (m : Bytes) : (sha256 m).length = 32 := by simp [sha256]

theorem slice_length (s : Bytes) (a b : Nat) (hb : b ≤ s.length) : (slice s a b).length = b - a := by
  simp [slice, hb]

/-- A slice that ends inside the first string does not see the second. -/
theorem slice_append (s r : Bytes) (a b : Nat) (hb : b ≤ s.length) : slice (s ++ r) a b = slice s a b := by
  simp [slice, List.take_append, hb]

theorem xorBytes_length (a b : Bytes) : (xorBytes a b).length = min a.length b.length := by simp [xorBytes]

theorem crc16_append (s r : Bytes) (o l : Nat) (h : o + l ≤ s.length) : crc16 (s ++ r) o l = crc16 s o l := by
  simp [crc16, slice_append, h]

/-- One shift of the CRC register is linear. -/
theorem crcShift_xor (a b : Half) : crcShift (a ^^^ b) = crcShift a ^^^ crcShift b := by
  have hs : (a ^^^ b) <<< 1 = a <<< 1 ^^^ b <<< 1 := BitVec.shiftLeft_xor_distrib a b 1
  have hp : ∀ x y z : Half, x ^^^ y ^^^ z = (x ^^^ z) ^^^ y := fun x y z => by
    rw [BitVec.xor_assoc, BitVec.xor_comm y z, ← BitVec.xor_assoc]
  have hc : ∀ x y z : Half, (x ^^^ z) ^^^ (y ^^^ z) = x ^^^ y := fun x y z => by
    rw [← BitVec.xor_assoc, hp x z y, BitVec.xor_assoc _ z z]; simp
  unfold crcShift
  rw [BitVec.getLsbD_xor, hs]
  cases a.getLsbD 15 <;> cases b.getLsbD 15 <;> simp [hp, hc, BitVec.xor_assoc, BitVec.xor_comm crcPoly]

theorem crcShifts_xor (n : Nat) (a b : Half) : crcShifts n (a ^^^ b) = crcShifts n a ^^^ crcShifts n b := by
  induction n generalizing a b with
  | zero => rfl
  | succ n ih => simp [crcShifts, crcShift_xor, ih]

end Sys2Proof
end

