-- ==== Sys2Proof/Laws/Operands.lean ====
section
/-! SUPPORT. What each operand check says, and what a zone code, a location and a built frame are. -/

namespace Sys2Proof

theorem slotOk_iff {slot : Nat} : slotOk slot = true ↔ slot ≤ 15 := by
  rw [slotOk, decide_eq_true_eq, show slotCount = 16 from rfl]; omega

theorem lenOk_iff {s : Bytes} {n : Nat} : lenOk s n = true ↔ s.length = n := decide_eq_true_iff

theorem rangeOk_iff {s : Bytes} {o l : Nat} : rangeOk s o l = true ↔ o + l ≤ s.length := decide_eq_true_iff

theorem frameFits_iff {p : Params} {pl : Bytes} : frameFits p pl = true ↔ 8 + pl.length ≤ p.frameMax := decide_eq_true_iff

theorem respLenOk_iff {n : Nat} : respLenOk n = true ↔ 4 ≤ n ∧ n ≤ 255 := by simp [respLenOk]

theorem location_eq (block offset : Nat) : location block offset = 8 * block + offset := by
  simp [location, Nat.shiftLeft_eq]; omega

theorem locationFits_iff {block offset : Nat} : locationFits block offset = true ↔ 8 * block + offset < 65536 := by
  rw [locationFits, decide_eq_true_eq, location_eq, show 2 ^ 16 = 65536 from rfl]

theorem writeDataOk_iff {d : Bytes} : writeDataOk d = true ↔ d.length = 4 ∨ d.length = 32 := by simp [writeDataOk]

theorem writeMacOk_iff {mac : Option Bytes} : writeMacOk mac = true ↔ ∀ m ∈ mac, m.length = 32 := by
  cases mac <;> simp [writeMacOk]

theorem macChallengeOk_iff {c : Bytes} : macChallengeOk c = true ↔ c.length = 0 ∨ c.length = 32 := by
  simp [macChallengeOk]

theorem msgOk_iff {m : Bytes} : msgOk m = true ↔ m.length < 2 ^ 61 := decide_eq_true_iff

theorem nonceInputMax_eq (mode : Byte) : nonceInputMax mode = if mode = 0x03 then 32 else 20 := rfl

theorem noncemixOk_iff {seed input : Bytes} {mode : Byte} :
    noncemixOk seed input mode = true ↔ seed.length = 32 ∧ input.length ≤ if mode = 0x03 then 32 else 20 := by
  rw [noncemixOk, Bool.and_eq_true, lenOk_iff, decide_eq_true_eq, nonceInputMax_eq, show keyLen = 32 from rfl]

theorem validateOk_iff {serial random input root : Bytes} {slot : Nat} {mode : Byte} :
    validateOk serial random input root slot mode = true ↔
      serial.length = 9 ∧ random.length = 32 ∧ root.length = 32 ∧ slot ≤ 15 ∧
        if mode = 0x03 then input.length = 32 else input.length ≤ 20 := by
  by_cases h : mode = 0x03
  · have hd : decide (mode ≠ noncePassthrough) = false := by rw [h]; rfl
    rw [validateOk, hd, Bool.false_or]
    simp only [Bool.and_eq_true, lenOk_iff, slotOk_iff, noncemixOk_iff, if_pos h, serialLen, keyLen]
    omega
  · have hd : decide (mode ≠ noncePassthrough) = true := decide_eq_true h
    rw [validateOk, hd, Bool.true_or]
    simp only [Bool.and_eq_true, lenOk_iff, slotOk_iff, noncemixOk_iff, if_neg h, serialLen, keyLen, and_true]
    omega

/-- A code that names a zone is that zone's code. -/
theorem zoneCode_of_zoneOfCode {p : Params} {code : Byte} {z : Zone} (h : zoneOfCode p code = some z) :
    zoneCode p z = code := by
  unfold zoneOfCode at h
  split at h
  · simp_all [zoneCode]; subst h; rfl
  · split at h
    · simp_all [zoneCode]; subst h; rfl
    · split at h
      · simp_all [zoneCode]; subst h; rfl
      · simp at h

/-- A code is refused exactly when it is none of the three. -/
theorem zoneOfCode_eq_none_iff {p : Params} {code : Byte} :
    zoneOfCode p code = none ↔ code ≠ p.zoneConfig ∧ code ≠ p.zoneOtp ∧ code ≠ p.zoneData := by
  unfold zoneOfCode
  split
  · simp_all
  · split
    · simp_all
    · split <;> simp_all

theorem frameBytes_length (c p1 : Byte) (p2 : Half) (pl : Bytes) : (frameBytes c p1 p2 pl).length = 8 + pl.length := by
  simp [frameBytes, frameHeader]; omega

/-- The CRC of a frame is over everything after the flag byte. -/
theorem frameCrc_eq (c p1 : Byte) (p2 : Half) (pl : Bytes) :
    frameCrc c p1 p2 pl = crcOf ([BitVec.ofNat 8 (7 + pl.length), c, p1, low p2, high p2] ++ pl) := by
  unfold frameCrc crc16 slice frameHeader
  rw [List.take_of_length_le (by simp; omega)]
  rfl

@[simp] theorem frame_bytes_length (f : Frame) (c : Byte) : (f.bytes c).length = 8 + f.payload.length := by
  simp [Frame.bytes]; omega

/-- A range of two bytes is those two bytes. -/
theorem slice_two {rx : Bytes} {a : Nat} (h : a + 2 ≤ rx.length) :
    slice rx a (a + 2) = [rx.getD a 0x00, rx.getD (a + 1) 0x00] := by
  apply List.ext_getElem
  · simp [slice]; omega
  · intro i h1 h2
    obtain rfl | rfl : i = 0 ∨ i = 1 := by simp at h2; omega
    · simp [slice]; rw [List.getElem?_eq_getElem (by omega)]; rfl
    · simp [slice]; rw [List.getElem?_eq_getElem (by omega)]; rfl

end Sys2Proof
end

