-- ==== Sys2Proof/Laws/Decode.lean ====
section
/-! SUPPORT. The frame decoder on the bytes of a frame, which command each opcode tells under legal parameters, and the
operand of DERIVEKEY that has two carriers. -/

namespace Sys2Proof

/-- The decoder cuts a frame into its fields again. -/
theorem decodeFrame_bytes (p : Params) (f : Frame) (op : Byte) : decodeFrame p (f.bytes op) = wireOf p op f := by
  have h : f.bytes op = cmdFlag :: f.count :: op :: f.param1 :: low f.param2 :: high f.param2 ::
      (f.payload ++ [low f.crc, high f.crc]) := by simp [Frame.bytes]
  have hl : (f.payload ++ [low f.crc, high f.crc]).length - 2 = f.payload.length := by simp
  rw [h]
  simp only [decodeFrame]
  rw [hl, List.drop_left, List.take_left]
  simp

/-- What a frame decodes to is the frame with these bytes. -/
theorem bytes_of_decodeFrame {p : Params} {bs : Bytes} {i : Instr} (h : decodeFrame p bs = .ok i) :
    ∃ f op, bs = f.bytes op ∧ wireOf p op f = .ok i := by
  unfold decodeFrame at h
  split at h
  · next flag count op p1 lo hi rest =>
    split at h
    · next clo chi hd =>
      split at h
      · next hf =>
        refine ⟨_, op, ?_, h⟩
        have := List.take_append_drop (rest.length - 2) rest
        rw [hd] at this
        simp [Frame.bytes, hf, this]
      · simp at h
    · simp at h
  · simp at h

/-- DERIVEKEY decodes from its operands, whichever carries the `target_slot`. -/
theorem operandsOf_derivekey (r s : Bytes) (t : Nat) :
    operandsOf .derivekey [.bytes r, targetSlotOperand t, .bytes s] = some (.derivekey r t s) := by
  unfold targetSlotOperand
  split
  · simp [operandsOf]; omega
  · next h => simp [operandsOf, show ¬ t < 65536 by omega]

/-- Legal opcodes differ. -/
theorem opcodes_nodup {p : Params} (h : paramsLegal p = true) : (commandOpcodes p).Nodup := by
  simp only [paramsLegal, Bool.and_eq_true, decide_eq_true_eq] at h
  exact h.1.1.1.1.1.2

variable {p : Params}

theorem wireOf_read (f : Frame) : wireOf p p.opcRead f = .ok (.wireRead f) := if_pos rfl

theorem wireOf_write (hl : paramsLegal p = true) (f : Frame) : wireOf p p.opcWrite f = .ok (.wireWrite f) := by
  have h := opcodes_nodup hl
  simp only [commandOpcodes, List.nodup_cons, List.mem_cons, not_or] at h
  rw [wireOf, if_neg (Ne.symm h.1.1), if_pos rfl]

theorem wireOf_nonce (hl : paramsLegal p = true) (f : Frame) : wireOf p p.opcNonce f = .ok (.wireNonce f) := by
  have h := opcodes_nodup hl
  simp only [commandOpcodes, List.nodup_cons, List.mem_cons, not_or] at h
  rw [wireOf, if_neg (Ne.symm h.1.2.1), if_neg (Ne.symm h.2.1.1), if_pos rfl]

theorem wireOf_gendig (hl : paramsLegal p = true) (f : Frame) : wireOf p p.opcGendig f = .ok (.wireGendig f) := by
  have h := opcodes_nodup hl
  simp only [commandOpcodes, List.nodup_cons, List.mem_cons, not_or] at h
  rw [wireOf, if_neg (Ne.symm h.1.2.2.1), if_neg (Ne.symm h.2.1.2.1), if_neg (Ne.symm h.2.2.1.1), if_pos rfl]

theorem wireOf_mac (hl : paramsLegal p = true) (f : Frame) : wireOf p p.opcMac f = .ok (.wireMac f) := by
  have h := opcodes_nodup hl
  simp only [commandOpcodes, List.nodup_cons, List.mem_cons, not_or] at h
  rw [wireOf, if_neg (Ne.symm h.1.2.2.2.1), if_neg (Ne.symm h.2.1.2.2.1), if_neg (Ne.symm h.2.2.1.2.1),
    if_neg (Ne.symm h.2.2.2.1.1), if_pos rfl]

theorem wireOf_checkmac (hl : paramsLegal p = true) (f : Frame) :
    wireOf p p.opcCheckmac f = .ok (.wireCheckmac f) := by
  have h := opcodes_nodup hl
  simp only [commandOpcodes, List.nodup_cons, List.mem_cons, not_or] at h
  rw [wireOf, if_neg (Ne.symm h.1.2.2.2.2.1), if_neg (Ne.symm h.2.1.2.2.2.1), if_neg (Ne.symm h.2.2.1.2.2.1),
    if_neg (Ne.symm h.2.2.2.1.2.1), if_neg (Ne.symm h.2.2.2.2.1.1), if_pos rfl]

theorem wireOf_lock (hl : paramsLegal p = true) (f : Frame) : wireOf p p.opcLock f = .ok (.wireLock f) := by
  have h := opcodes_nodup hl
  simp only [commandOpcodes, List.nodup_cons, List.mem_cons, not_or] at h
  rw [wireOf, if_neg (Ne.symm h.1.2.2.2.2.2.1), if_neg (Ne.symm h.2.1.2.2.2.2.1), if_neg (Ne.symm h.2.2.1.2.2.2.1),
    if_neg (Ne.symm h.2.2.2.1.2.2.1), if_neg (Ne.symm h.2.2.2.2.1.2.1), if_neg (Ne.symm h.2.2.2.2.2.1.1), if_pos rfl]

end Sys2Proof
end

