-- ==== Sys2Proof/Laws/State.lean ====
section
/-! SUPPORT. One lemma per field per named update of State, each true by rfl, so that no proof unfolds a record update. -/

namespace Sys2Proof.Machine

variable (s : State)

@[simp] theorem engineReset_params : (engineReset s).params = s.params := rfl
@[simp] theorem engineReset_busy : (engineReset s).busy = false := rfl
@[simp] theorem engineReset_stage : (engineReset s).stage = Stage.idle := rfl
@[simp] theorem engineReset_crcUnit : (engineReset s).crcUnit = resetCrcUnit := rfl
@[simp] theorem engineReset_hashUnit : (engineReset s).hashUnit = resetHashUnit := rfl
@[simp] theorem engineReset_codec : (engineReset s).codec = resetCodec := rfl
@[simp] theorem engineReset_inputs : (engineReset s).inputs = s.inputs := rfl
@[simp] theorem engineReset_delivered : (engineReset s).delivered = s.delivered := rfl
@[simp] theorem engineReset_wire : (engineReset s).wire = s.wire := rfl
@[simp] theorem engineReset_freeCount : (engineReset s).freeCount = s.freeCount := rfl

@[simp] theorem refuseArrivals_params : (refuseArrivals s).params = s.params := rfl
@[simp] theorem refuseArrivals_busy : (refuseArrivals s).busy = s.busy := rfl
@[simp] theorem refuseArrivals_stage : (refuseArrivals s).stage = s.stage := rfl
@[simp] theorem refuseArrivals_crcUnit : (refuseArrivals s).crcUnit = s.crcUnit := rfl
@[simp] theorem refuseArrivals_hashUnit : (refuseArrivals s).hashUnit = s.hashUnit := rfl
@[simp] theorem refuseArrivals_codec : (refuseArrivals s).codec = s.codec := rfl
@[simp] theorem refuseArrivals_inputs : (refuseArrivals s).inputs = afterDuring s.inputs := rfl
@[simp] theorem refuseArrivals_delivered :
    (refuseArrivals s).delivered = s.delivered ++ List.replicate (busyCount s.inputs) respBusy := rfl
@[simp] theorem refuseArrivals_wire : (refuseArrivals s).wire = s.wire := rfl
@[simp] theorem refuseArrivals_freeCount : (refuseArrivals s).freeCount = s.freeCount := rfl

@[simp] theorem answered_params (r : Response) : (answered r s).params = s.params := rfl
@[simp] theorem answered_busy (r : Response) : (answered r s).busy = false := rfl
@[simp] theorem answered_stage (r : Response) : (answered r s).stage = Stage.idle := rfl
@[simp] theorem answered_crcUnit (r : Response) : (answered r s).crcUnit = s.crcUnit := rfl
@[simp] theorem answered_hashUnit (r : Response) : (answered r s).hashUnit = s.hashUnit := rfl
@[simp] theorem answered_codec (r : Response) : (answered r s).codec = s.codec := rfl
@[simp] theorem answered_inputs (r : Response) : (answered r s).inputs = s.inputs := rfl
@[simp] theorem answered_delivered (r : Response) : (answered r s).delivered = s.delivered ++ [r] := rfl
@[simp] theorem answered_wire (r : Response) : (answered r s).wire = s.wire := rfl
@[simp] theorem answered_freeCount (r : Response) : (answered r s).freeCount = s.freeCount := rfl

@[simp] theorem accept_params : (accept s).params = s.params := rfl
@[simp] theorem accept_busy : (accept s).busy = true := rfl
@[simp] theorem accept_stage : (accept s).stage = s.stage := rfl
@[simp] theorem accept_crcUnit : (accept s).crcUnit = s.crcUnit := rfl
@[simp] theorem accept_hashUnit : (accept s).hashUnit = s.hashUnit := rfl
@[simp] theorem accept_codec : (accept s).codec = s.codec := rfl
@[simp] theorem accept_inputs : (accept s).inputs = s.inputs := rfl
@[simp] theorem accept_delivered : (accept s).delivered = s.delivered := rfl
@[simp] theorem accept_wire : (accept s).wire = s.wire := rfl
@[simp] theorem accept_freeCount : (accept s).freeCount = s.freeCount := rfl

@[simp] theorem refuseBusy_params : (refuseBusy s).params = s.params := rfl
@[simp] theorem refuseBusy_busy : (refuseBusy s).busy = s.busy := rfl
@[simp] theorem refuseBusy_stage : (refuseBusy s).stage = s.stage := rfl
@[simp] theorem refuseBusy_crcUnit : (refuseBusy s).crcUnit = s.crcUnit := rfl
@[simp] theorem refuseBusy_hashUnit : (refuseBusy s).hashUnit = s.hashUnit := rfl
@[simp] theorem refuseBusy_codec : (refuseBusy s).codec = s.codec := rfl
@[simp] theorem refuseBusy_inputs : (refuseBusy s).inputs = s.inputs := rfl
@[simp] theorem refuseBusy_delivered : (refuseBusy s).delivered = s.delivered ++ [respBusy] := rfl
@[simp] theorem refuseBusy_wire : (refuseBusy s).wire = s.wire := rfl
@[simp] theorem refuseBusy_freeCount : (refuseBusy s).freeCount = s.freeCount := rfl

@[simp] theorem runCrc_params (b : Bytes) (o l : Nat) : (runCrc b o l s).params = s.params := rfl
@[simp] theorem runCrc_busy (b : Bytes) (o l : Nat) : (runCrc b o l s).busy = s.busy := rfl
@[simp] theorem runCrc_stage (b : Bytes) (o l : Nat) : (runCrc b o l s).stage = s.stage := rfl
@[simp] theorem runCrc_crcUnit (b : Bytes) (o l : Nat) : (runCrc b o l s).crcUnit = crcAfter b o l := rfl
@[simp] theorem runCrc_hashUnit (b : Bytes) (o l : Nat) : (runCrc b o l s).hashUnit = s.hashUnit := rfl
@[simp] theorem runCrc_codec (b : Bytes) (o l : Nat) : (runCrc b o l s).codec = s.codec := rfl
@[simp] theorem runCrc_inputs (b : Bytes) (o l : Nat) : (runCrc b o l s).inputs = s.inputs := rfl
@[simp] theorem runCrc_delivered (b : Bytes) (o l : Nat) : (runCrc b o l s).delivered = s.delivered := rfl
@[simp] theorem runCrc_wire (b : Bytes) (o l : Nat) : (runCrc b o l s).wire = s.wire := rfl
@[simp] theorem runCrc_freeCount (b : Bytes) (o l : Nat) : (runCrc b o l s).freeCount = s.freeCount := rfl

@[simp] theorem runHashOperand_params (m : Bytes) : (runHashOperand m s).params = s.params := rfl
@[simp] theorem runHashOperand_busy (m : Bytes) : (runHashOperand m s).busy = s.busy := rfl
@[simp] theorem runHashOperand_stage (m : Bytes) : (runHashOperand m s).stage = s.stage := rfl
@[simp] theorem runHashOperand_crcUnit (m : Bytes) : (runHashOperand m s).crcUnit = s.crcUnit := rfl
@[simp] theorem runHashOperand_hashUnit (m : Bytes) :
    (runHashOperand m s).hashUnit = hashAfter s.hashUnit.msg m := rfl
@[simp] theorem runHashOperand_codec (m : Bytes) : (runHashOperand m s).codec = s.codec := rfl
@[simp] theorem runHashOperand_inputs (m : Bytes) : (runHashOperand m s).inputs = s.inputs := rfl
@[simp] theorem runHashOperand_delivered (m : Bytes) : (runHashOperand m s).delivered = s.delivered := rfl
@[simp] theorem runHashOperand_wire (m : Bytes) : (runHashOperand m s).wire = s.wire := rfl
@[simp] theorem runHashOperand_freeCount (m : Bytes) : (runHashOperand m s).freeCount = s.freeCount := rfl

@[simp] theorem runHash_params (m : Bytes) : (runHash m s).params = s.params := rfl
@[simp] theorem runHash_busy (m : Bytes) : (runHash m s).busy = s.busy := rfl
@[simp] theorem runHash_stage (m : Bytes) : (runHash m s).stage = s.stage := rfl
@[simp] theorem runHash_crcUnit (m : Bytes) : (runHash m s).crcUnit = s.crcUnit := rfl
@[simp] theorem runHash_hashUnit (m : Bytes) : (runHash m s).hashUnit = hashAfter m m := rfl
@[simp] theorem runHash_codec (m : Bytes) : (runHash m s).codec = s.codec := rfl
@[simp] theorem runHash_inputs (m : Bytes) : (runHash m s).inputs = s.inputs := rfl
@[simp] theorem runHash_delivered (m : Bytes) : (runHash m s).delivered = s.delivered := rfl
@[simp] theorem runHash_wire (m : Bytes) : (runHash m s).wire = s.wire := rfl
@[simp] theorem runHash_freeCount (m : Bytes) : (runHash m s).freeCount = s.freeCount := rfl

@[simp] theorem loadFrame_params (c p1 : Byte) (p2 : Half) (pl : Bytes) :
    (loadFrame c p1 p2 pl s).params = s.params := rfl
@[simp] theorem loadFrame_busy (c p1 : Byte) (p2 : Half) (pl : Bytes) : (loadFrame c p1 p2 pl s).busy = s.busy := rfl
@[simp] theorem loadFrame_stage (c p1 : Byte) (p2 : Half) (pl : Bytes) :
    (loadFrame c p1 p2 pl s).stage = s.stage := rfl
@[simp] theorem loadFrame_crcUnit (c p1 : Byte) (p2 : Half) (pl : Bytes) :
    (loadFrame c p1 p2 pl s).crcUnit = crcAfter (frameHeader c p1 p2 pl.length ++ pl) 1 (5 + pl.length) := rfl
@[simp] theorem loadFrame_hashUnit (c p1 : Byte) (p2 : Half) (pl : Bytes) :
    (loadFrame c p1 p2 pl s).hashUnit = s.hashUnit := rfl
@[simp] theorem loadFrame_codec (c p1 : Byte) (p2 : Half) (pl : Bytes) :
    (loadFrame c p1 p2 pl s).codec = { s.codec with tx := frameBytes c p1 p2 pl } := rfl
@[simp] theorem loadFrame_inputs (c p1 : Byte) (p2 : Half) (pl : Bytes) :
    (loadFrame c p1 p2 pl s).inputs = s.inputs := rfl
@[simp] theorem loadFrame_delivered (c p1 : Byte) (p2 : Half) (pl : Bytes) :
    (loadFrame c p1 p2 pl s).delivered = s.delivered := rfl
@[simp] theorem loadFrame_wire (c p1 : Byte) (p2 : Half) (pl : Bytes) : (loadFrame c p1 p2 pl s).wire = s.wire := rfl
@[simp] theorem loadFrame_freeCount (c p1 : Byte) (p2 : Half) (pl : Bytes) :
    (loadFrame c p1 p2 pl s).freeCount = s.freeCount := rfl

@[simp] theorem stageFrame_params (c p1 : Byte) (p2 : Half) (pl : Bytes) (n : Nat) (d : Option Nat) :
    (stageFrame c p1 p2 pl n d s).params = s.params := rfl
@[simp] theorem stageFrame_busy (c p1 : Byte) (p2 : Half) (pl : Bytes) (n : Nat) (d : Option Nat) :
    (stageFrame c p1 p2 pl n d s).busy = s.busy := rfl
@[simp] theorem stageFrame_stage (c p1 : Byte) (p2 : Half) (pl : Bytes) (n : Nat) (d : Option Nat) :
    (stageFrame c p1 p2 pl n d s).stage = Stage.framed := rfl
@[simp] theorem stageFrame_crcUnit (c p1 : Byte) (p2 : Half) (pl : Bytes) (n : Nat) (d : Option Nat) :
    (stageFrame c p1 p2 pl n d s).crcUnit = crcAfter (frameHeader c p1 p2 pl.length ++ pl) 1 (5 + pl.length) := rfl
@[simp] theorem stageFrame_hashUnit (c p1 : Byte) (p2 : Half) (pl : Bytes) (n : Nat) (d : Option Nat) :
    (stageFrame c p1 p2 pl n d s).hashUnit = s.hashUnit := rfl
@[simp] theorem stageFrame_codec (c p1 : Byte) (p2 : Half) (pl : Bytes) (n : Nat) (d : Option Nat) :
    (stageFrame c p1 p2 pl n d s).codec = { s.codec with tx := frameBytes c p1 p2 pl, respLen := n, dataLen := d } := rfl
@[simp] theorem stageFrame_inputs (c p1 : Byte) (p2 : Half) (pl : Bytes) (n : Nat) (d : Option Nat) :
    (stageFrame c p1 p2 pl n d s).inputs = s.inputs := rfl
@[simp] theorem stageFrame_delivered (c p1 : Byte) (p2 : Half) (pl : Bytes) (n : Nat) (d : Option Nat) :
    (stageFrame c p1 p2 pl n d s).delivered = s.delivered := rfl
@[simp] theorem stageFrame_wire (c p1 : Byte) (p2 : Half) (pl : Bytes) (n : Nat) (d : Option Nat) :
    (stageFrame c p1 p2 pl n d s).wire = s.wire := rfl
@[simp] theorem stageFrame_freeCount (c p1 : Byte) (p2 : Half) (pl : Bytes) (n : Nat) (d : Option Nat) :
    (stageFrame c p1 p2 pl n d s).freeCount = s.freeCount := rfl

@[simp] theorem txWrite_params : (txWrite s).params = s.params := rfl
@[simp] theorem txWrite_busy : (txWrite s).busy = s.busy := rfl
@[simp] theorem txWrite_stage : (txWrite s).stage = s.stage := rfl
@[simp] theorem txWrite_crcUnit : (txWrite s).crcUnit = s.crcUnit := rfl
@[simp] theorem txWrite_hashUnit : (txWrite s).hashUnit = s.hashUnit := rfl
@[simp] theorem txWrite_codec : (txWrite s).codec = s.codec := rfl
@[simp] theorem txWrite_inputs : (txWrite s).inputs = dropWriteAnswer s.inputs := rfl
@[simp] theorem txWrite_delivered : (txWrite s).delivered = s.delivered := rfl
@[simp] theorem txWrite_wire : (txWrite s).wire = s.wire ++ [TxEvent.write s.codec.tx (writeAnswerOf s)] := rfl
@[simp] theorem txWrite_freeCount : (txWrite s).freeCount = s.freeCount + 1 := rfl

@[simp] theorem txRead_params : (txRead s).params = s.params := rfl
@[simp] theorem txRead_busy : (txRead s).busy = s.busy := rfl
@[simp] theorem txRead_stage : (txRead s).stage = s.stage := rfl
@[simp] theorem txRead_crcUnit : (txRead s).crcUnit = s.crcUnit := rfl
@[simp] theorem txRead_hashUnit : (txRead s).hashUnit = s.hashUnit := rfl
@[simp] theorem txRead_codec : (txRead s).codec = { s.codec with attempt := s.codec.attempt + 1 } := rfl
@[simp] theorem txRead_inputs : (txRead s).inputs = dropReadAnswer s.inputs := rfl
@[simp] theorem txRead_delivered : (txRead s).delivered = s.delivered := rfl
@[simp] theorem txRead_wire :
    (txRead s).wire = s.wire ++ [TxEvent.read s.codec.respLen (readAnswerOf s.codec.respLen s)] := rfl
@[simp] theorem txRead_freeCount : (txRead s).freeCount = s.freeCount + 1 := rfl

@[simp] theorem receive_params (rx : Bytes) : (receive rx s).params = s.params := rfl
@[simp] theorem receive_busy (rx : Bytes) : (receive rx s).busy = s.busy := rfl
@[simp] theorem receive_stage (rx : Bytes) : (receive rx s).stage = Stage.received := rfl
@[simp] theorem receive_crcUnit (rx : Bytes) : (receive rx s).crcUnit = s.crcUnit := rfl
@[simp] theorem receive_hashUnit (rx : Bytes) : (receive rx s).hashUnit = s.hashUnit := rfl
@[simp] theorem receive_codec (rx : Bytes) : (receive rx s).codec = { s.codec with rx := rx } := rfl
@[simp] theorem receive_inputs (rx : Bytes) : (receive rx s).inputs = s.inputs := rfl
@[simp] theorem receive_delivered (rx : Bytes) : (receive rx s).delivered = s.delivered := rfl
@[simp] theorem receive_wire (rx : Bytes) : (receive rx s).wire = s.wire := rfl
@[simp] theorem receive_freeCount (rx : Bytes) : (receive rx s).freeCount = s.freeCount := rfl

@[simp] theorem startAttempts_params : (startAttempts s).params = s.params := rfl
@[simp] theorem startAttempts_busy : (startAttempts s).busy = s.busy := rfl
@[simp] theorem startAttempts_stage : (startAttempts s).stage = s.stage := rfl
@[simp] theorem startAttempts_crcUnit : (startAttempts s).crcUnit = s.crcUnit := rfl
@[simp] theorem startAttempts_hashUnit : (startAttempts s).hashUnit = s.hashUnit := rfl
@[simp] theorem startAttempts_codec : (startAttempts s).codec = { s.codec with attempt := 0, rx := [] } := rfl
@[simp] theorem startAttempts_inputs : (startAttempts s).inputs = s.inputs := rfl
@[simp] theorem startAttempts_delivered : (startAttempts s).delivered = s.delivered := rfl
@[simp] theorem startAttempts_wire : (startAttempts s).wire = s.wire := rfl
@[simp] theorem startAttempts_freeCount : (startAttempts s).freeCount = s.freeCount := rfl

end Sys2Proof.Machine
end

