-- ==== Sys2Proof/Laws/Ops.lean ====
section
/-! SUPPORT. What each shared operation of Machine/Ops.lean can do, said once. -/

namespace Sys2Proof.Machine

/-! ## Arrivals -/

theorem busyCount_of_quiet {inputs : List Input} (h : quiet inputs = true) : busyCount inputs = 0 := by
  cases inputs with
  | nil => rfl
  | cons i rest => cases i <;> simp_all [quiet, busyCount]

theorem afterDuring_of_quiet {inputs : List Input} (h : quiet inputs = true) : afterDuring inputs = inputs := by
  cases inputs with
  | nil => rfl
  | cons i rest => cases i <;> simp_all [quiet, afterDuring]

theorem resetDuring_of_quiet {inputs : List Input} (h : quiet inputs = true) : resetDuring inputs = false := by
  cases inputs with
  | nil => rfl
  | cons i rest => cases i <;> simp_all [quiet, resetDuring]

/-- What is left of the inputs is a suffix of them. -/
theorem afterDuring_suffix (inputs : List Input) : afterDuring inputs <:+ inputs := by
  induction inputs with
  | nil => exact List.suffix_rfl
  | cons i rest ih =>
    cases i with
    | during a =>
      cases a with
      | request r => exact ih.trans (List.suffix_cons _ _)
      | reset => exact List.suffix_cons _ _
    | _ => exact List.suffix_rfl

/-- A reset during the operation is among the inputs. -/
theorem mem_of_resetDuring {inputs : List Input} (h : resetDuring inputs = true) : Input.during .reset ∈ inputs := by
  induction inputs with
  | nil => simp [resetDuring] at h
  | cons i rest ih =>
    cases i with
    | during a =>
      cases a with
      | request r => exact List.mem_cons_of_mem _ (ih h)
      | reset => exact List.mem_cons_self
    | _ => simp [resetDuring] at h

theorem refuseArrivals_of_quiet {s : State} (h : quiet s.inputs = true) : refuseArrivals s = s := by
  simp [refuseArrivals, busyCount_of_quiet h, afterDuring_of_quiet h]

theorem onArrivals_of_quiet {s : State} {f : State → State} (h : quiet s.inputs = true) : onArrivals s f = f s := by
  simp [onArrivals, resetDuring_of_quiet h, refuseArrivals_of_quiet h]

/-- A request that arrives is refused with `Busy`, and the operation goes on from there. -/
theorem onArrivals_request (s : State) (f : State → State) (r : Request) (rest : List Input) :
    onArrivals { s with inputs := .during (.request r) :: rest } f =
      onArrivals { s with inputs := rest, delivered := s.delivered ++ [respBusy] } f := by
  simp [onArrivals, resetDuring, refuseArrivals, busyCount, afterDuring, List.replicate_succ]
  rfl

/-- A reset that arrives abandons the operation. -/
theorem onArrivals_reset {s : State} {f : State → State} {rest : List Input} (h : s.inputs = .during .reset :: rest) :
    onArrivals s f = engineReset { s with inputs := rest } := by
  simp [onArrivals, h, resetDuring, refuseArrivals, afterDuring, busyCount]

/-- With no arrival, delivering a response is the whole end of an operation. -/
theorem deliver_of_quiet {s : State} {r : Response} (h : quiet s.inputs = true) : deliver r s = answered r s :=
  onArrivals_of_quiet h

/-- An operation ends in its response, or a reset abandoned it. -/
theorem deliver_cases (r : Response) (s : State) :
    (resetDuring s.inputs = false ∧ deliver r s = answered r (refuseArrivals s)) ∨
    (resetDuring s.inputs = true ∧ deliver r s = engineReset (refuseArrivals s)) := by
  unfold deliver onArrivals
  cases resetDuring s.inputs <;> simp

/-! ## The transport -/

@[simp] theorem fillRead_length (n access : Nat) (bs : Bytes) : (fillRead n access bs).length = n := by
  simp [fillRead]; omega

theorem fillRead_of_length {n access : Nat} {bs : Bytes} (h : bs.length = n) : fillRead n access bs = bs := by
  subst h; simp [fillRead]

/-- A read that does not fail returns exactly the bytes asked for. -/
theorem readAnswerOf_length {n : Nat} {s : State} {rx : Bytes} (h : readAnswerOf n s = some rx) : rx.length = n := by
  unfold readAnswerOf at h
  split at h
  · simp at h
  · simp only [Option.some.injEq] at h; subst h; simp
  · split at h
    · simp only [Option.some.injEq] at h; subst h; simp
    · simp at h

theorem dropWriteAnswer_suffix (inputs : List Input) : dropWriteAnswer inputs <:+ inputs := by
  unfold dropWriteAnswer
  split
  · exact List.suffix_cons _ _
  · exact List.suffix_rfl

theorem dropReadAnswer_suffix (inputs : List Input) : dropReadAnswer inputs <:+ inputs := by
  unfold dropReadAnswer
  split
  · exact List.suffix_cons _ _
  · exact List.suffix_rfl

/-! ## Parsing -/

/-- PARSE writes the CRC unit at most. -/
theorem parseCrc_eq (rx : Bytes) (s : State) : ∃ c, parseCrc rx s = { s with crcUnit := c } := by
  unfold parseCrc
  split
  · exact ⟨_, rfl⟩
  · split
    · exact ⟨_, rfl⟩
    · exact ⟨_, rfl⟩

@[simp] theorem parseCrc_params (rx : Bytes) (s : State) : (parseCrc rx s).params = s.params := by
  obtain ⟨c, h⟩ := parseCrc_eq rx s; rw [h]
@[simp] theorem parseCrc_busy (rx : Bytes) (s : State) : (parseCrc rx s).busy = s.busy := by
  obtain ⟨c, h⟩ := parseCrc_eq rx s; rw [h]
@[simp] theorem parseCrc_stage (rx : Bytes) (s : State) : (parseCrc rx s).stage = s.stage := by
  obtain ⟨c, h⟩ := parseCrc_eq rx s; rw [h]
@[simp] theorem parseCrc_hashUnit (rx : Bytes) (s : State) : (parseCrc rx s).hashUnit = s.hashUnit := by
  obtain ⟨c, h⟩ := parseCrc_eq rx s; rw [h]
@[simp] theorem parseCrc_codec (rx : Bytes) (s : State) : (parseCrc rx s).codec = s.codec := by
  obtain ⟨c, h⟩ := parseCrc_eq rx s; rw [h]
@[simp] theorem parseCrc_inputs (rx : Bytes) (s : State) : (parseCrc rx s).inputs = s.inputs := by
  obtain ⟨c, h⟩ := parseCrc_eq rx s; rw [h]
@[simp] theorem parseCrc_delivered (rx : Bytes) (s : State) : (parseCrc rx s).delivered = s.delivered := by
  obtain ⟨c, h⟩ := parseCrc_eq rx s; rw [h]
@[simp] theorem parseCrc_wire (rx : Bytes) (s : State) : (parseCrc rx s).wire = s.wire := by
  obtain ⟨c, h⟩ := parseCrc_eq rx s; rw [h]
@[simp] theorem parseCrc_freeCount (rx : Bytes) (s : State) : (parseCrc rx s).freeCount = s.freeCount := by
  obtain ⟨c, h⟩ := parseCrc_eq rx s; rw [h]

theorem responseLegal_parseResponse (rx : Bytes) : responseLegal (parseResponse rx) = true := by
  unfold parseResponse
  split
  · rfl
  · split
    · split
      · split
        · next h => simp [isErrorEnvelope] at h; simp [responseLegal, respChipError]; simpa using h.2
        · rfl
      · rfl
    · rfl

theorem checkDataLen_cases (d : Option Nat) (r : Response) :
    checkDataLen d r = r ∨ checkDataLen d r = respCrcMismatch 2 := by
  unfold checkDataLen
  split
  · split <;> simp
  · simp

theorem responseLegal_checkDataLen {d : Option Nat} {r : Response} (h : responseLegal r = true) :
    responseLegal (checkDataLen d r) = true := by
  obtain h' | h' := checkDataLen_cases d r <;> rw [h']
  · exact h
  · rfl

theorem parseResponse_kind (rx : Bytes) :
    (parseResponse rx).kind ∈ [Kind.ok, .crcMismatch, .chipError] ∨ (rx = [] ∧ parseResponse rx = respBadOperand) := by
  unfold parseResponse
  split
  · simp
  · left; split
    · split
      · split <;> simp [respOk, respChipError]
      · simp [respCrcMismatch]
    · simp [respCrcMismatch]

/-! ## Following a SEND to its end

One principle for every property of the states a SEND passes through: `P` of the state, kept by every primitive, gives
`Q` of the end, where a response or a reset makes `Q` of `P`. -/

/-- What a property must satisfy to be followed from the frame in `TX` to the end of the operation. -/
structure Follows (P Q : State → Prop) : Prop where
  refuse : ∀ s, P s → P (refuseArrivals s)
  write : ∀ s, P s → P (txWrite s)
  read : ∀ s, P s → P (txRead s)
  receive : ∀ s rx, P s → rx.length = s.codec.respLen → P (receive rx s)
  crc : ∀ s, P s → P (parseCrc s.codec.rx s)
  reset : ∀ s, P s → resetDuring s.inputs = true → Q (engineReset (refuseArrivals s))
  answer : ∀ s r, P s → responseLegal r = true → r.kind ≠ .busy → r.kind ≠ .badOpsel → Q (answered r s)

variable {P Q : State → Prop}

theorem Follows.onArrivals (h : Follows P Q) {s : State} {f : State → State} (hs : P s) (hf : ∀ t, P t → Q (f t)) :
    Q (onArrivals s f) := by
  unfold Machine.onArrivals
  split
  · next hr => exact h.reset s hs hr
  · exact hf _ (h.refuse s hs)

theorem Follows.deliver (h : Follows P Q) {s : State} {r : Response} (hs : P s) (hl : responseLegal r = true)
    (hb : r.kind ≠ .busy) (ho : r.kind ≠ .badOpsel) : Q (deliver r s) :=
  h.onArrivals hs fun t ht => h.answer t r ht hl hb ho

theorem Follows.finish (h : Follows P Q) {s : State} (hs : P s) : Q (finish s) := by
  refine h.deliver (h.crc s hs) (responseLegal_checkDataLen (responseLegal_parseResponse _)) ?_ ?_ <;>
  · obtain hc | hc := checkDataLen_cases s.codec.dataLen (parseResponse s.codec.rx) <;> rw [hc]
    · obtain hk | ⟨-, hk⟩ := parseResponse_kind s.codec.rx
      · intro hbad; rw [hbad] at hk; simp at hk
      · rw [hk]; simp [respBadOperand, respRaise]
    · simp [respCrcMismatch]

theorem Follows.poll (h : Follows P Q) (k : Nat) {s : State} (hs : P s) : Q (poll k s) := by
  induction k generalizing s with
  | zero => exact h.deliver hs rfl (by simp [respNoResponse, respRaise]) (by simp [respNoResponse, respRaise])
  | succ k ih =>
    refine h.onArrivals hs fun t ht => ?_
    split
    · exact ih (h.read t ht)
    · next rx hrx => exact h.finish (h.receive _ rx (h.read t ht) (readAnswerOf_length hrx))

theorem Follows.transmit (h : Follows P Q) {s : State} (hs : P (startAttempts s)) : Q (transmit s) := by
  refine h.onArrivals hs fun t ht => ?_
  split
  · exact h.poll _ (h.write t ht)
  · exact h.deliver (h.write t ht) rfl (by simp [respNoResponse, respRaise]) (by simp [respNoResponse, respRaise])

end Sys2Proof.Machine
end

