-- ==== Sys2Proof/Laws/Exec.lean ====
section
/-! SUPPORT. What an instruction can do, said once for all of them: it prepares working registers and then either ends
with a response, or transmits the frame in `TX`, or ends the operation whose response stands in `RX`. -/

namespace Sys2Proof.Machine

/-- `t` differs from `s` in working registers (and the point of the operation) at most. -/
structure SameOutside (s t : State) : Prop where
  params : t.params = s.params
  inputs : t.inputs = s.inputs
  delivered : t.delivered = s.delivered
  wire : t.wire = s.wire
  freeCount : t.freeCount = s.freeCount

theorem SameOutside.refl (s : State) : SameOutside s s := ⟨rfl, rfl, rfl, rfl, rfl⟩

/-- The ways an instruction runs. -/
inductive Runs (s t : State) : Prop
  /-- it ends with a response -/
  | ends (s' : State) (r : Response) (eq : t = deliver r s') (same : SameOutside s s')
      (legal : responseLegal r = true) (notBusy : r.kind ≠ .busy) (notBadOpsel : r.kind ≠ .badOpsel)
  /-- it transmits the frame in `TX` -/
  | transmits (s' : State) (eq : t = transmit s') (same : SameOutside s s')
  /-- it ends the operation in flight -/
  | finishes (s' : State) (eq : t = finish s') (same : SameOutside s s')

theorem Runs.badOperand (s : State) : Runs s (deliver respBadOperand s) :=
  .ends s _ rfl (.refl s) rfl (by simp [respBadOperand, respRaise]) (by simp [respBadOperand, respRaise])

theorem Runs.ok {s s' : State} (b : Bytes) (h : SameOutside s s') : Runs s (deliver (respOk b) s') :=
  .ends s' _ rfl h rfl (by simp [respOk]) (by simp [respOk])

theorem sameOutside_runHash (m : Bytes) (s : State) : SameOutside s (runHash m s) := ⟨rfl, rfl, rfl, rfl, rfl⟩

theorem Runs.chainOperation (ok : Bool) (m : Bytes) (s : State) : Runs s (chainOperation ok m s) := by
  cases ok
  · exact .badOperand s
  · exact .ok _ (sameOutside_runHash m s)

theorem Runs.sendFrame (c p1 : Byte) (p2 : Half) (pl : Bytes) (n : Nat) (d : Option Nat) (s : State) :
    Runs s (sendFrame c p1 p2 pl n d s) := by
  unfold Machine.sendFrame
  split
  · split
    · exact .transmits _ rfl ⟨rfl, rfl, rfl, rfl, rfl⟩
    · exact .badOperand s
  · exact .badOperand s

theorem Runs.sendCommand (c p1 : Byte) (p2 : Half) (pl : Bytes) (d : Nat) (s : State) :
    Runs s (sendCommand c p1 p2 pl d s) := .sendFrame ..

theorem Runs.runWire (c : Byte) (f : Frame) (d : Nat) (s : State) : Runs s (runWire c f d s) :=
  .transmits _ rfl ⟨rfl, rfl, rfl, rfl, rfl⟩

theorem parseCrc_sameOutside (rx : Bytes) (s : State) : SameOutside s (parseCrc rx s) := by
  constructor <;> simp

theorem parseResponse_kind_ne (rx : Bytes) : (parseResponse rx).kind ≠ .busy ∧ (parseResponse rx).kind ≠ .badOpsel := by
  obtain hk | ⟨-, hk⟩ := parseResponse_kind rx
  · constructor <;> intro hbad <;> rw [hbad] at hk <;> simp at hk
  · simp [hk, respBadOperand, respRaise]

/-- The inversion of `exec`: every instruction answers a next state, in one of the ways of `Runs`. -/
theorem exec_runs (i : Instr) (s : State) : ∃ t, exec i s = .next t ∧ Runs s t := by
  cases i with
  | crc16 b o l =>
    refine ⟨_, rfl, ?_⟩
    split
    · exact .ends _ _ rfl ⟨rfl, rfl, rfl, rfl, rfl⟩ rfl (by simp [respU16]) (by simp [respU16])
    · exact .badOperand s
  | frame c p1 p2 pl =>
    refine ⟨_, rfl, ?_⟩
    split
    · exact .ok _ ⟨rfl, rfl, rfl, rfl, rfl⟩
    · exact .badOperand s
  | parse rx =>
    obtain ⟨h1, h2, h3, h4, h5⟩ := parseCrc_sameOutside rx { s with codec := { s.codec with rx := rx } }
    exact ⟨_, rfl, .ends _ _ rfl ⟨h1, h2, h3, h4, h5⟩ (responseLegal_parseResponse rx) (parseResponse_kind_ne rx).1
      (parseResponse_kind_ne rx).2⟩
  | send c p1 p2 pl n => exact ⟨_, rfl, .sendFrame ..⟩
  | cmdRead z b o f =>
    refine ⟨_, rfl, ?_⟩
    split
    · exact .badOperand s
    · split
      · exact .sendCommand ..
      · exact .badOperand s
  | cmdWrite z b o d m e =>
    refine ⟨_, rfl, ?_⟩
    split
    · exact .badOperand s
    · split
      · exact .sendCommand ..
      · exact .badOperand s
  | cmdNonce m inp =>
    refine ⟨_, rfl, ?_⟩
    split
    · exact .sendCommand ..
    · exact .badOperand s
  | cmdGendig z sl x =>
    refine ⟨_, rfl, ?_⟩
    split
    · exact .badOperand s
    · split
      · exact .sendCommand ..
      · exact .badOperand s
  | cmdMac sl c f =>
    refine ⟨_, rfl, ?_⟩
    split
    · exact .sendCommand ..
    · exact .badOperand s
  | cmdCheckmac sl c r o f =>
    refine ⟨_, rfl, ?_⟩
    split
    · exact .sendCommand ..
    · exact .badOperand s
  | cmdLock d c k => exact ⟨_, rfl, .sendCommand ..⟩
  | sha256 m =>
    refine ⟨_, rfl, ?_⟩
    split
    · exact .ok _ ⟨rfl, rfl, rfl, rfl, rfl⟩
    · exact .badOperand s
  | derivekey r t sn => exact ⟨_, rfl, .chainOperation ..⟩
  | noncemix n inp m =>
    refine ⟨_, rfl, ?_⟩
    split
    · split
      · exact .ok _ (.refl s)
      · exact .ok _ (sameOutside_runHash _ s)
    · exact .badOperand s
  | sesskey k sl sn cn => exact ⟨_, rfl, .chainOperation ..⟩
  | xor32 a b =>
    refine ⟨_, rfl, ?_⟩
    split
    · exact .ok _ (.refl s)
    · exact .badOperand s
  | wrmac k sl sn pt => exact ⟨_, rfl, .chainOperation ..⟩
  | macresp k c o => exact ⟨_, rfl, .chainOperation ..⟩
  | validate sn dr ci rk sl m =>
    refine ⟨_, rfl, ?_⟩
    split
    · refine .ok _ ?_
      unfold runNonceMix
      split <;> exact ⟨rfl, rfl, rfl, rfl, rfl⟩
    · exact .badOperand s
  | wireRead f => exact ⟨_, rfl, .runWire ..⟩
  | wireWrite f => exact ⟨_, rfl, .runWire ..⟩
  | wireNonce f => exact ⟨_, rfl, .runWire ..⟩
  | wireGendig f => exact ⟨_, rfl, .runWire ..⟩
  | wireMac f => exact ⟨_, rfl, .runWire ..⟩
  | wireCheckmac f => exact ⟨_, rfl, .runWire ..⟩
  | wireLock f => exact ⟨_, rfl, .runWire ..⟩
  | response len rest => exact ⟨_, rfl, .finishes _ rfl ⟨rfl, rfl, rfl, rfl, rfl⟩⟩

/-- What `Follows` says of a SEND it says of every instruction, where `P` holds of all that its preparation can leave. -/
theorem exec_follows {P Q : State → Prop} (h : Follows P Q) {i : Instr} {s t : State} (he : exec i s = .next t)
    (hP : ∀ s', SameOutside s s' → P s') : Q t := by
  obtain ⟨u, hu, hr⟩ := exec_runs i s
  rw [hu] at he
  cases he
  cases hr with
  | ends s' r eq same legal notBusy notBadOpsel => subst eq; exact h.deliver (hP _ same) legal notBusy notBadOpsel
  | transmits s' eq same =>
    subst eq
    exact h.transmit (hP _ ⟨same.params, same.inputs, same.delivered, same.wire, same.freeCount⟩)
  | finishes s' eq same => subst eq; exact h.finish (hP _ same)

end Sys2Proof.Machine
end

