-- ==== Sys2Proof/Laws/PerInstr.lean ====
section
/-! SUPPORT. Per instruction: its encoding has the fixed bits of its row of spec/opcode_table.json, with the default wire
opcodes of R72 for the WIRE rows (R61, R85). -/

namespace Sys2Proof.Laws.TableRow

/-- The fixed bits of a row: the `opsel` of an OPREQ row, byte 2 of a WIRE row (byte 0 is 0x03), none of the RESP row. -/
inductive Row where
  | opreq (opsel : Byte)
  | wire (opcode : Byte)
  | resp
  deriving DecidableEq, Repr

/-- The row of an instruction. -/
def rowOf : Instr → Row
  | .crc16 _ _ _ => .opreq 0x01
  | .frame _ _ _ _ => .opreq 0x10
  | .parse _ => .opreq 0x11
  | .send _ _ _ _ _ => .opreq 0x12
  | .cmdRead _ _ _ _ => .opreq 0x20
  | .cmdWrite _ _ _ _ _ _ => .opreq 0x21
  | .cmdNonce _ _ => .opreq 0x22
  | .cmdGendig _ _ _ => .opreq 0x23
  | .cmdMac _ _ _ => .opreq 0x24
  | .cmdCheckmac _ _ _ _ _ => .opreq 0x25
  | .cmdLock _ _ _ => .opreq 0x26
  | .sha256 _ => .opreq 0x30
  | .derivekey _ _ _ => .opreq 0x31
  | .noncemix _ _ _ => .opreq 0x32
  | .sesskey _ _ _ _ => .opreq 0x33
  | .xor32 _ _ => .opreq 0x34
  | .wrmac _ _ _ _ => .opreq 0x35
  | .macresp _ _ _ => .opreq 0x36
  | .validate _ _ _ _ _ _ => .opreq 0x37
  | .wireRead _ => .wire 0x02
  | .wireWrite _ => .wire 0x12
  | .wireNonce _ => .wire 0x16
  | .wireGendig _ => .wire 0x15
  | .wireMac _ => .wire 0x08
  | .wireCheckmac _ => .wire 0x28
  | .wireLock _ => .wire 0x17
  | .response _ _ => .resp

/-- A code has the fixed bits of a row. -/
def Row.fits : Row → Code → Prop
  | .opreq opsel, .request r => r.opsel = opsel
  | .wire opcode, .frame bs => bs.getD 0 0x00 = 0x03 ∧ bs.getD 2 0x00 = opcode
  | .resp, .response bs => bs ≠ []
  | _, _ => False

/-- The encoding of `i` under the default parameters has the fixed bits of its row. -/
def Statement (i : Instr) : Prop :=
  ∀ pollMax frameMax : Nat, (rowOf i).fits (encode (defaultParams pollMax frameMax) i)

theorem crc16 (bytes : Bytes) (offset length : Nat) : Statement (.crc16 bytes offset length) := fun _ _ => rfl
theorem frame (opcode param1 : Byte) (param2 : Half) (payload : Bytes) :
    Statement (.frame opcode param1 param2 payload) := fun _ _ => rfl
theorem parse (rx : Bytes) : Statement (.parse rx) := fun _ _ => rfl
theorem send (opcode param1 : Byte) (param2 : Half) (payload : Bytes) (respLen : Nat) :
    Statement (.send opcode param1 param2 payload respLen) := fun _ _ => rfl
theorem cmdRead (zone : Byte) (block offset : Nat) (fourByte : Bool) :
    Statement (.cmdRead zone block offset fourByte) := fun _ _ => rfl
theorem cmdWrite (zone : Byte) (block offset : Nat) (data : Bytes) (mac : Option Bytes) (encrypted : Bool) :
    Statement (.cmdWrite zone block offset data mac encrypted) := fun _ _ => rfl
theorem cmdNonce (mode : Byte) (input : Bytes) : Statement (.cmdNonce mode input) := fun _ _ => rfl
theorem cmdGendig (zone : Byte) (slot : Nat) (extra : Bytes) : Statement (.cmdGendig zone slot extra) := fun _ _ => rfl
theorem cmdMac (slot : Nat) (challenge : Bytes) (flags : Byte) :
    Statement (.cmdMac slot challenge flags) := fun _ _ => rfl
theorem cmdCheckmac (slot : Nat) (challenge response otherData : Bytes) (flags : Byte) :
    Statement (.cmdCheckmac slot challenge response otherData flags) := fun _ _ => rfl
theorem cmdLock (isData : Bool) (checksum : Half) (skipChecksum : Bool) :
    Statement (.cmdLock isData checksum skipChecksum) := fun _ _ => rfl
theorem sha256 (msg : Bytes) : Statement (.sha256 msg) := fun _ _ => rfl
theorem derivekey (rootKey : Bytes) (targetSlot : Nat) (serial : Bytes) :
    Statement (.derivekey rootKey targetSlot serial) := fun _ _ => rfl
theorem noncemix (nonceSeed input : Bytes) (mode : Byte) : Statement (.noncemix nonceSeed input mode) := fun _ _ => rfl
theorem sesskey (slotKey : Bytes) (slot : Nat) (serial chipNonce : Bytes) :
    Statement (.sesskey slotKey slot serial chipNonce) := fun _ _ => rfl
theorem xor32 (a b : Bytes) : Statement (.xor32 a b) := fun _ _ => rfl
theorem wrmac (sessionKey : Bytes) (slot : Nat) (serial plaintext : Bytes) :
    Statement (.wrmac sessionKey slot serial plaintext) := fun _ _ => rfl
theorem macresp (key challenge otherData : Bytes) : Statement (.macresp key challenge otherData) := fun _ _ => rfl
theorem validate (serial deviceRandom challengeInput rootKey : Bytes) (slot : Nat) (mode : Byte) :
    Statement (.validate serial deviceRandom challengeInput rootKey slot mode) := fun _ _ => rfl
theorem wireRead (f : Frame) : Statement (.wireRead f) := fun _ _ => ⟨rfl, rfl⟩
theorem wireWrite (f : Frame) : Statement (.wireWrite f) := fun _ _ => ⟨rfl, rfl⟩
theorem wireNonce (f : Frame) : Statement (.wireNonce f) := fun _ _ => ⟨rfl, rfl⟩
theorem wireGendig (f : Frame) : Statement (.wireGendig f) := fun _ _ => ⟨rfl, rfl⟩
theorem wireMac (f : Frame) : Statement (.wireMac f) := fun _ _ => ⟨rfl, rfl⟩
theorem wireCheckmac (f : Frame) : Statement (.wireCheckmac f) := fun _ _ => ⟨rfl, rfl⟩
theorem wireLock (f : Frame) : Statement (.wireLock f) := fun _ _ => ⟨rfl, rfl⟩
theorem response (len : Byte) (rest : Bytes) : Statement (.response len rest) := fun _ _ => List.cons_ne_nil _ _

end Sys2Proof.Laws.TableRow
end

