-- ==== Sys2Proof/Tests/Slice0.lean ====
section
/-! SUPPORT. The model's own tests: ill-formed terms, words written out from the spec's encodings, the vectors of
spec/95_test_vectors.md (named in each comment), and a witness for the hypotheses of every obligation that has some. -/

namespace Sys2Proof.Tests

open Sys2Proof.Machine Sys2Proof.Spec

set_option maxRecDepth 20000
set_option Elab.async false

/-! ## Helpers -/

/-- The defaults with the `POLL_MAX = 3` of the vectors and the `FRAME_MAX = 85` of V-COD-5. -/
def params : Params := defaultParams 3 85

/-- The machine after reset with these parameters and inputs. -/
def start (inputs : List Input) : State := { State.reset with params := params, inputs := inputs }

/-- The last response delivered. -/
def lastResponse (o : Host.Outcome State Fault Refusal) : Option Response :=
  match o with
  | .next t => t.delivered.getLast?
  | .fault _ => none
  | .refused _ => none

/-- What is on the transport stream. -/
def wireOfOutcome (o : Host.Outcome State Fault Refusal) : List TxEvent :=
  match o with
  | .next t => t.wire
  | .fault _ => []
  | .refused _ => []

/-- The next state, as data that can be compared. -/
def nextState (o : Host.Outcome State Fault Refusal) : Option State :=
  match o with
  | .next t => some t
  | .fault _ => none
  | .refused _ => none

/-- The response of an instruction run after reset with the defaults. -/
def answer (i : Instr) : Option Response := lastResponse (exec i (start []))

/-- Inputs: an acknowledged write, then one read. -/
def ackThen (rx : Bytes) : List Input := [.writeAnswer true, .readAnswer (some rx)]

/-- The frame an instruction writes when the write is not acknowledged. -/
def frameWritten (i : Instr) : List TxEvent := wireOfOutcome (exec i (start [.writeAnswer false]))

/-- The bytes `a, a+1, ..` of sample strings. -/
def count (a n : Nat) : Bytes := (List.range n).map fun i => BitVec.ofNat 8 (a + i)

/-- `root` of the vectors. -/
def root : Bytes := count 0 32

/-- `serial` of the vectors. -/
def serial : Bytes := [0x01, 0x23, 0x5d, 0xc2, 0x51, 0x2d, 0xb7, 0x61, 0xee]

/-- `rnd` of the vectors. -/
def rnd : Bytes :=
  [0x4e, 0xab, 0x86, 0xb4, 0xfc, 0xe8, 0x39, 0x60, 0x5c, 0xb5, 0xe0, 0x9f, 0xb8, 0x48, 0x60, 0xdb] ++
  [0x4e, 0x5f, 0xe3, 0x67, 0x81, 0x86, 0xff, 0x17, 0xfc, 0x88, 0xb0, 0x2e, 0xea, 0xf4, 0x23, 0xcb]

/-- `input20` of the vectors. -/
def input20 : Bytes :=
  [0x44, 0x43, 0x3a, 0x35, 0x34, 0x3a, 0x37, 0x35, 0x3a, 0x44, 0x38, 0x3a, 0x36, 0x45, 0x3a, 0x38, 0x38, 0, 0, 0]

/-- `k3` of the vectors. -/
def k3 : Bytes := count 0xa0 32

/-- `P` of the vectors. -/
def plain : Bytes :=
  [0x00, 0x11, 0x22, 0x33, 0x44, 0x55, 0x66, 0x77, 0x88, 0x99, 0xaa, 0xbb, 0xcc, 0xdd, 0xee, 0xff] ++
  [0x10, 0x21, 0x32, 0x43, 0x54, 0x65, 0x76, 0x87, 0x98, 0xa9, 0xba, 0xcb, 0xdc, 0xed, 0xfe, 0x0f]

/-- `SK3` of V-KEY-7. -/
def sk3 : Bytes :=
  [0x33, 0x50, 0xfb, 0x7b, 0x26, 0x0f, 0x70, 0xb4, 0xfb, 0xac, 0xe2, 0x04, 0x0a, 0xeb, 0x04, 0xcd] ++
  [0xfe, 0xf7, 0xcb, 0x01, 0xac, 0x85, 0x55, 0xa7, 0x55, 0xa8, 0xd7, 0x61, 0x3b, 0x26, 0xcb, 0xc1]

/-- `CT` of V-KEY-8. -/
def ct : Bytes :=
  [0x33, 0x41, 0xd9, 0x48, 0x62, 0x5a, 0x16, 0xc3, 0x73, 0x35, 0x48, 0xbf, 0xc6, 0x36, 0xea, 0x32] ++
  [0xee, 0xd6, 0xf9, 0x42, 0xf8, 0xe0, 0x23, 0x20, 0xcd, 0x01, 0x6d, 0xaa, 0xe7, 0xcb, 0x35, 0xce]

/-- `MAC` of V-KEY-9. -/
def mac9 : Bytes :=
  [0x17, 0x21, 0x71, 0xba, 0x76, 0xe6, 0x90, 0xdd, 0xe3, 0xc3, 0x53, 0x3f, 0x9f, 0xfd, 0x3b, 0x8f] ++
  [0xcd, 0x79, 0x04, 0x34, 0xb2, 0x8a, 0x92, 0x95, 0xce, 0xfc, 0xdb, 0xf3, 0x48, 0x0f, 0x71, 0xba]

/-- `DK`, the result of V-KEY-1. -/
def dk : Bytes :=
  [0xa2, 0x9a, 0x2c, 0x21, 0x0c, 0x2e, 0xcf, 0x20, 0x63, 0x74, 0x96, 0x72, 0x6c, 0x0c, 0x59, 0x84] ++
  [0x88, 0xc5, 0x13, 0x14, 0xb2, 0x29, 0x38, 0x8c, 0x52, 0xba, 0x60, 0xb9, 0xf1, 0x3a, 0x46, 0xc0]

/-- `CN0`, the result of V-KEY-4. -/
def cn0 : Bytes :=
  [0xd7, 0x9f, 0x25, 0x46, 0x86, 0x1d, 0x28, 0x44, 0xf9, 0x37, 0xba, 0x57, 0xca, 0x92, 0xe7, 0x7a] ++
  [0xe1, 0x4d, 0xdf, 0xba, 0xfe, 0xc6, 0x36, 0x18, 0xee, 0x65, 0x2a, 0x83, 0x3b, 0x1a, 0x63, 0xe0]

/-- The result of V-KEY-11 and V-KEY-12. -/
def expected : Bytes :=
  [0xfe, 0xad, 0xc3, 0x3d, 0xa4, 0x39, 0x59, 0x25, 0x5f, 0x24, 0x30, 0x90, 0x4e, 0xab, 0x68, 0x7f] ++
  [0x3d, 0x70, 0x62, 0x42, 0x81, 0x16, 0x89, 0x3a, 0x5f, 0x49, 0x8f, 0x68, 0x52, 0xeb, 0xee, 0xa9]

/-- `RESP7` of V-KEY-13. -/
def resp7 : Bytes :=
  [0xb8, 0x71, 0x11, 0x4c, 0x43, 0xe8, 0x85, 0x3a, 0x16, 0x13, 0xe3, 0xb4, 0xa5, 0xba, 0x0f, 0xcb] ++
  [0xdf, 0x89, 0x54, 0x20, 0x06, 0xd7, 0x31, 0x66, 0x5a, 0x9f, 0xac, 0xc4, 0xbd, 0x98, 0x1e, 0x9a]

/-- `OD7` of V-CMD-17. -/
def od7 : Bytes := [0x08, 0x01, 0x07] ++ zeros 10

/-- `04 00 03 40` and 34 more bytes: a status of success in a read of 38. -/
def success : Bytes := [0x04, 0x00, 0x03, 0x40] ++ List.replicate 34 0xff

/-! ## Well-formed terms: one ill-formed term for each check -/

theorem test_illformed_crc16_range : wellFormed params (.crc16 [0xaa] 1 1) = false := by decide
theorem test_illformed_frame_length : wellFormed params (.frame 0x02 0x00 0x0000 (zeros 78)) = false := by decide
theorem test_illformed_parse_empty : wellFormed params (.parse []) = false := by decide
theorem test_illformed_send_resplen_low : wellFormed params (.send 0x02 0x00 0x0000 [] 3) = false := by decide
theorem test_illformed_send_resplen_high : wellFormed params (.send 0x02 0x00 0x0000 [] 256) = false := by decide
theorem test_illformed_send_length : wellFormed params (.send 0x02 0x00 0x0000 (zeros 78) 38) = false := by decide
theorem test_illformed_read_zone : wellFormed params (.cmdRead 0x03 0 0 true) = false := by decide
theorem test_illformed_read_location : wellFormed params (.cmdRead 0x00 8192 0 true) = false := by decide
theorem test_illformed_write_zone : wellFormed params (.cmdWrite 0x03 0 0 (zeros 4) none false) = false := by decide
theorem test_illformed_write_data : wellFormed params (.cmdWrite 0x02 5 0 [0, 1, 2] none false) = false := by decide
theorem test_illformed_write_mac : wellFormed params (.cmdWrite 0x02 5 0 (zeros 4) (some [0]) false) = false := by decide
theorem test_illformed_write_location : wellFormed params (.cmdWrite 0x02 8192 0 (zeros 4) none false) = false := by
  decide
theorem test_illformed_nonce_combining : wellFormed params (.cmdNonce 0x00 (zeros 21)) = false := by decide
theorem test_illformed_nonce_passthrough : wellFormed params (.cmdNonce 0x03 (zeros 33)) = false := by decide
theorem test_illformed_gendig_zone : wellFormed params (.cmdGendig 0x03 0 []) = false := by decide
theorem test_illformed_gendig_slot : wellFormed params (.cmdGendig 0x02 16 []) = false := by decide
theorem test_illformed_gendig_length : wellFormed params (.cmdGendig 0x02 3 (zeros 78)) = false := by decide
theorem test_illformed_mac_slot : wellFormed params (.cmdMac 16 [] 0x01) = false := by decide
theorem test_illformed_mac_challenge : wellFormed params (.cmdMac 0 (zeros 5) 0x01) = false := by decide
theorem test_illformed_checkmac_slot :
    wellFormed params (.cmdCheckmac 16 (zeros 32) (zeros 32) (zeros 13) 0x00) = false := by decide
theorem test_illformed_checkmac_challenge :
    wellFormed params (.cmdCheckmac 7 (zeros 31) (zeros 32) (zeros 13) 0x00) = false := by decide
theorem test_illformed_checkmac_response :
    wellFormed params (.cmdCheckmac 7 (zeros 32) (zeros 31) (zeros 13) 0x00) = false := by decide
theorem test_illformed_checkmac_other_data :
    wellFormed params (.cmdCheckmac 7 (zeros 32) (zeros 32) (zeros 12) 0x00) = false := by decide
theorem test_illformed_checkmac_length :
    wellFormed (defaultParams 3 84) (.cmdCheckmac 7 (zeros 32) (zeros 32) (zeros 13) 0x00) = false := by decide
theorem test_illformed_lock_length : wellFormed (defaultParams 3 7) (.cmdLock true 0x0000 true) = false := by decide
theorem test_illformed_derivekey_key : wellFormed params (.derivekey (zeros 31) 0 (zeros 9)) = false := by decide
theorem test_illformed_derivekey_slot : wellFormed params (.derivekey (zeros 32) 65536 (zeros 9)) = false := by decide
theorem test_illformed_derivekey_serial : wellFormed params (.derivekey (zeros 32) 0 (zeros 8)) = false := by decide
theorem test_illformed_noncemix_seed : wellFormed params (.noncemix (zeros 31) [] 0x00) = false := by decide
theorem test_illformed_noncemix_combining : wellFormed params (.noncemix (zeros 32) (zeros 21) 0x00) = false := by decide
theorem test_illformed_noncemix_passthrough : wellFormed params (.noncemix (zeros 32) (zeros 33) 0x03) = false := by
  decide
theorem test_illformed_sesskey_slot : wellFormed params (.sesskey (zeros 32) 16 (zeros 9) (zeros 32)) = false := by decide
theorem test_illformed_sesskey_nonce : wellFormed params (.sesskey (zeros 32) 3 (zeros 9) (zeros 20)) = false := by decide
theorem test_illformed_xor32 : wellFormed params (.xor32 (zeros 32) (zeros 31)) = false := by decide
theorem test_illformed_wrmac_slot : wellFormed params (.wrmac (zeros 32) 16 (zeros 9) (zeros 32)) = false := by decide
theorem test_illformed_wrmac_plaintext : wellFormed params (.wrmac (zeros 32) 5 (zeros 9) (zeros 33)) = false := by decide
theorem test_illformed_macresp : wellFormed params (.macresp (zeros 32) (zeros 32) (zeros 12)) = false := by decide
theorem test_illformed_validate_passthrough :
    wellFormed params (.validate (zeros 9) (zeros 32) (zeros 20) (zeros 32) 0 0x03) = false := by decide
theorem test_illformed_validate_slot :
    wellFormed params (.validate (zeros 9) (zeros 32) (zeros 20) (zeros 32) 16 0x00) = false := by decide
/-- V-CMD-1 with its CRC changed in one bit. -/
theorem test_illformed_wire_crc : wellFormed params (.wireRead ⟨0x07, 0x00, 0x0000, [], 0x2d1f⟩) = false := by decide
theorem test_illformed_wire_count : wellFormed params (.wireRead ⟨0x08, 0x00, 0x0000, [], 0x2d1e⟩) = false := by decide
/-- V-CMD-16 is a Mac frame: its fields are not those of a CheckMac. -/
theorem test_illformed_wire_checkmac : wellFormed params (.wireCheckmac ⟨0x07, 0x01, 0x0000, [], 0x6706⟩) = false := by
  decide
/-- V-COD-10. -/
theorem test_illformed_response_crc : wellFormed params (.response 0x04 [0x00, 0x00, 0x00]) = false := by decide
theorem test_illformed_response_length : wellFormed params (.response 0x03 [0x00, 0x00]) = false := by decide

/-! ## Decoding: a word of every row, written out from R61, R66 and R69 -/

theorem test_decode_crc16 : decodeRequest ⟨0b00000001, [.bytes [0x04, 0x11], .nat 0, .nat 2]⟩ =
    .ok (.crc16 [0x04, 0x11] 0 2) := by decide
theorem test_decode_frame : decodeRequest ⟨0b00010000, [.u8 0x12, .u8 0x00, .u16 0x0015, .bytes [0xde]]⟩ =
    .ok (.frame 0x12 0x00 0x0015 [0xde]) := by decide
theorem test_decode_parse : decodeRequest ⟨0b00010001, [.bytes [0x04]]⟩ = .ok (.parse [0x04]) := by decide
theorem test_decode_send : decodeRequest ⟨0b00010010, [.u8 0x02, .u8 0x01, .u16 0x1234, .bytes [], .nat 38]⟩ =
    .ok (.send 0x02 0x01 0x1234 [] 38) := by decide
theorem test_decode_read : decodeRequest ⟨0b00100000, [.u8 0x02, .nat 5, .nat 1, .bool false]⟩ =
    .ok (.cmdRead 0x02 5 1 false) := by decide
theorem test_decode_write :
    decodeRequest ⟨0b00100001, [.u8 0x02, .nat 5, .nat 1, .bytes [0xde], .absent, .bool true]⟩ =
      .ok (.cmdWrite 0x02 5 1 [0xde] none true) := by decide
theorem test_decode_nonce : decodeRequest ⟨0b00100010, [.u8 0x03, .bytes [0x01]]⟩ = .ok (.cmdNonce 0x03 [0x01]) := by
  decide
theorem test_decode_gendig : decodeRequest ⟨0b00100011, [.u8 0x02, .nat 3, .bytes []]⟩ = .ok (.cmdGendig 0x02 3 []) := by
  decide
theorem test_decode_mac : decodeRequest ⟨0b00100100, [.nat 9, .bytes [], .u8 0x01]⟩ = .ok (.cmdMac 9 [] 0x01) := by
  decide
theorem test_decode_checkmac :
    decodeRequest ⟨0b00100101, [.nat 7, .bytes [0x01], .bytes [0x02], .bytes [0x03], .u8 0x04]⟩ =
      .ok (.cmdCheckmac 7 [0x01] [0x02] [0x03] 0x04) := by decide
theorem test_decode_lock : decodeRequest ⟨0b00100110, [.bool true, .u16 0xc48c, .bool false]⟩ =
    .ok (.cmdLock true 0xc48c false) := by decide
theorem test_decode_sha256 : decodeRequest ⟨0b00110000, [.bytes [0x61]]⟩ = .ok (.sha256 [0x61]) := by decide
theorem test_decode_derivekey : decodeRequest ⟨0b00110001, [.bytes [0x01], .u16 0x0102, .bytes [0x02]]⟩ =
    .ok (.derivekey [0x01] 258 [0x02]) := by decide
theorem test_decode_noncemix : decodeRequest ⟨0b00110010, [.bytes [0x01], .bytes [0x02], .u8 0x03]⟩ =
    .ok (.noncemix [0x01] [0x02] 0x03) := by decide
theorem test_decode_sesskey : decodeRequest ⟨0b00110011, [.bytes [0x01], .nat 3, .bytes [0x02], .bytes [0x03]]⟩ =
    .ok (.sesskey [0x01] 3 [0x02] [0x03]) := by decide
theorem test_decode_xor32 : decodeRequest ⟨0b00110100, [.bytes [0x01], .bytes [0x02]]⟩ = .ok (.xor32 [0x01] [0x02]) := by
  decide
theorem test_decode_wrmac : decodeRequest ⟨0b00110101, [.bytes [0x01], .nat 5, .bytes [0x02], .bytes [0x03]]⟩ =
    .ok (.wrmac [0x01] 5 [0x02] [0x03]) := by decide
theorem test_decode_macresp : decodeRequest ⟨0b00110110, [.bytes [0x01], .bytes [0x02], .bytes [0x03]]⟩ =
    .ok (.macresp [0x01] [0x02] [0x03]) := by decide
theorem test_decode_validate :
    decodeRequest ⟨0b00110111, [.bytes [0x01], .bytes [0x02], .bytes [0x03], .bytes [0x04], .nat 5, .u8 0x06]⟩ =
      .ok (.validate [0x01] [0x02] [0x03] [0x04] 5 0x06) := by decide
/-- V-CMD-5. -/
theorem test_decode_wire_read : decodeFrame params [0x03, 0x07, 0x02, 0x82, 0x28, 0x00, 0x0a, 0x50] =
    .ok (.wireRead ⟨0x07, 0x82, 0x0028, [], 0x500a⟩) := by decide
/-- V-CMD-8. -/
theorem test_decode_wire_write :
    decodeFrame params [0x03, 0x0b, 0x12, 0x00, 0x15, 0x00, 0xde, 0xad, 0xbe, 0xef, 0xa3, 0x56] =
      .ok (.wireWrite ⟨0x0b, 0x00, 0x0015, [0xde, 0xad, 0xbe, 0xef], 0x56a3⟩) := by decide
/-- V-CMD-12. -/
theorem test_decode_wire_nonce :
    decodeFrame params ([0x03, 0x1b, 0x16, 0x00, 0x00, 0x00] ++ count 0 20 ++ [0x53, 0xb5]) =
      .ok (.wireNonce ⟨0x1b, 0x00, 0x0000, count 0 20, 0xb553⟩) := by decide
/-- V-CMD-15. -/
theorem test_decode_wire_gendig : decodeFrame params [0x03, 0x07, 0x15, 0x02, 0x03, 0x00, 0x3f, 0x08] =
    .ok (.wireGendig ⟨0x07, 0x02, 0x0003, [], 0x083f⟩) := by decide
/-- V-CMD-16. -/
theorem test_decode_wire_mac : decodeFrame params [0x03, 0x07, 0x08, 0x01, 0x00, 0x00, 0x06, 0x67] =
    .ok (.wireMac ⟨0x07, 0x01, 0x0000, [], 0x6706⟩) := by decide
/-- V-CMD-17. -/
theorem test_decode_wire_checkmac :
    decodeFrame params ([0x03, 0x54, 0x28, 0x00, 0x07, 0x00] ++ zeros 32 ++ resp7 ++ od7 ++ [0x8c, 0x57]) =
      .ok (.wireCheckmac ⟨0x54, 0x00, 0x0007, zeros 32 ++ resp7 ++ od7, 0x578c⟩) := by decide
/-- V-CMD-18. -/
theorem test_decode_wire_lock : decodeFrame params [0x03, 0x07, 0x17, 0x00, 0x34, 0x12, 0x9d, 0x64] =
    .ok (.wireLock ⟨0x07, 0x00, 0x1234, [], 0x649d⟩) := by decide
theorem test_decode_response : decodeResponse [0x04, 0x00, 0x03, 0x40] = .ok (.response 0x04 [0x00, 0x03, 0x40]) := by
  decide
theorem test_decode_unassigned_opsel : decodeRequest ⟨0x02, []⟩ = .error (.badOpsel 0x02) := by decide
theorem test_decode_wrong_operands : decodeRequest ⟨0x30, [.nat 1]⟩ = .error (.operandShape 0x30) := by decide
theorem test_decode_wrong_flag : decodeFrame params [0x04, 0x07, 0x02, 0, 0, 0, 0, 0] = .error (.wrongFlag 0x04) := by
  decide
theorem test_decode_unnamed_opcode : decodeFrame params [0x03, 0x07, 0x1c, 0, 0, 0, 0, 0] =
    .error (.unnamedOpcode 0x1c) := by decide
theorem test_decode_short_frame : decodeFrame params [0x03, 0x07, 0x02, 0, 0, 0, 0] = .error .shortFrame := by decide

/-- Words as the opcode table numbers them: an `opsel`, frame bytes 0 to 2 (byte 0 in bits 7..0), a length byte. -/
theorem test_table_words :
    decodeTableWord 8 0x34 = some (.xor32 (zeros 32) (zeros 32)) ∧
    decodeTableWord 24 0x170003 = some (.wireLock ⟨0x00, 0x00, 0x0000, [], 0x0000⟩) ∧
    decodeTableWord 8 0x04 = some (.response 0x04 (zeros 37)) := by decide

/-- Such a word, put where the machine takes what it runs next, is what the next step runs. -/
theorem test_fetch_word :
    fetch (State.reset.withFetchWord 8 0x34) = .run (.xor32 (zeros 32) (zeros 32)) (accept State.reset) ∧
    (match fetch (State.reset.withFetchWord 24 0x170003) with
      | .run i _ => decide (i = .wireLock ⟨0x00, 0x00, 0x0000, [], 0x0000⟩)
      | .done _ => false) = true ∧
    (match fetch (State.reset.withFetchWord 8 0x04) with
      | .run i _ => decide (i = .response 0x04 (zeros 37))
      | .done _ => false) = true := ⟨rfl, by decide, by decide⟩

/-! ## Vectors -/

/-- V-CRC-9. -/
theorem test_crc16_wake : answer (.crc16 [0x04, 0x11] 0 2) = some (respU16 0x4333) := by decide +kernel
/-- V-CRC-13. -/
theorem test_crc16_range :
    answer (.crc16 [0xaa, 0x04, 0x11, 0xbb] 1 2) = some (respU16 0x4333) ∧
    answer (.crc16 [0xaa, 0x04, 0x11, 0xbb] 4 0) = some (respU16 0x0000) ∧
    answer (.crc16 [0xaa, 0x04, 0x11, 0xbb] 5 0) = some respBadOperand := by decide +kernel
/-- V-COD-2. -/
theorem test_frame_param2 : answer (.frame 0x02 0x00 0x1234 []) =
    some (respOk [0x03, 0x07, 0x02, 0x00, 0x34, 0x12, 0xad, 0x44]) := by decide +kernel
/-- V-COD-5. -/
theorem test_frame_max :
    answer (.frame 0x02 0x00 0x0000 (zeros 78)) = some respBadOperand ∧
    (answer (.frame 0x02 0x00 0x0000 (zeros 77))).map Response.kind = some .ok := by decide +kernel
/-- V-COD-6, V-COD-7, V-COD-8. -/
theorem test_parse_data :
    answer (.parse success) = some (respOk [0x00]) ∧
    answer (.parse [0x04, 0x0f, 0x23, 0x42]) = some (respChipError 0x0f) ∧
    answer (.parse [0x07, 0x01, 0x23, 0x5d, 0xc2, 0xef, 0x3f, 0x99]) = some (respOk [0x01, 0x23, 0x5d, 0xc2]) := by
  decide +kernel
/-- V-COD-10, V-COD-11. -/
theorem test_parse_errors :
    answer (.parse [0x04, 0x01, 0x00, 0xc2]) = some (respCrcMismatch 0) ∧
    answer (.parse (List.replicate 38 0xff)) = some (respCrcMismatch 1) ∧
    answer (.parse []) = some respBadOperand := by decide +kernel
/-- V-COD-13. -/
theorem test_send_polls :
    nextState
      (exec (.send 0x02 0x00 0x0000 [] 38) (start [.writeAnswer true, .readAnswer none, .readAnswer (some success)])) =
      some { start [] with
        codec := { tx := [0x03, 0x07, 0x02, 0x00, 0x00, 0x00, 0x1e, 0x2d], rx := success, attempt := 2, respLen := 38,
                   dataLen := none }
        crcUnit := { crc := 0x4003, index := 2, bit := 8 }
        delivered := [respOk [0x00]]
        wire := [.write [0x03, 0x07, 0x02, 0x00, 0x00, 0x00, 0x1e, 0x2d] true, .read 38 none, .read 38 (some success)]
        freeCount := 3 } := by decide +kernel
/-- V-COD-12, V-COD-14. -/
theorem test_send_gives_up :
    wireOfOutcome (exec (.send 0x02 0x00 0x0000 [] 38)
      (start [.writeAnswer true, .readAnswer none, .readAnswer none, .readAnswer none])) =
        [.write [0x03, 0x07, 0x02, 0x00, 0x00, 0x00, 0x1e, 0x2d] true, .read 38 none, .read 38 none, .read 38 none] ∧
    frameWritten (.send 0x02 0x00 0x0000 [] 38) =
      [.write [0x03, 0x07, 0x02, 0x00, 0x00, 0x00, 0x1e, 0x2d] false] := by decide +kernel
/-- V-CMD-5, V-CMD-3, V-CMD-6. -/
theorem test_read_frame :
    frameWritten (.cmdRead 0x02 5 0 false) = [.write [0x03, 0x07, 0x02, 0x82, 0x28, 0x00, 0x0a, 0x50] false] ∧
    frameWritten (.cmdRead 0x00 2 5 true) = [.write [0x03, 0x07, 0x02, 0x00, 0x15, 0x00, 0x17, 0x5d] false] ∧
    frameWritten (.cmdRead 0x00 0 9 true) = [.write [0x03, 0x07, 0x02, 0x00, 0x09, 0x00, 0x14, 0x4d] false] := by
  decide +kernel
/-- V-CMD-21, V-CMD-22, V-CMD-23. -/
theorem test_read_responses :
    lastResponse (exec (.cmdRead 0x00 0 0 true)
      (start (ackThen ([0x07, 0x01, 0x23, 0x5d, 0xc2, 0xef, 0x3f] ++ zeros 31)))) =
        some (respOk [0x01, 0x23, 0x5d, 0xc2]) ∧
    lastResponse (exec (.cmdRead 0x00 0 0 true) (start (ackThen success))) = some (respCrcMismatch 2) ∧
    lastResponse (exec (.cmdRead 0x00 0 0 true) (start (ackThen ([0x04, 0x0f, 0x23, 0x42] ++ zeros 34)))) =
      some (respChipError 0x0f) := by decide +kernel
/-- V-CMD-9, V-CMD-10. -/
theorem test_write_frames :
    frameWritten (.cmdWrite 0x02 5 0 ct (some mac9) false) =
      [.write ([0x03, 0x47, 0x12, 0x82, 0x28, 0x00] ++ ct ++ mac9 ++ [0xc6, 0xf0]) false] ∧
    frameWritten (.cmdWrite 0x02 5 0 ct (some mac9) true) =
      [.write ([0x03, 0x47, 0x12, 0xc2, 0x28, 0x00] ++ ct ++ mac9 ++ [0x65, 0x58]) false] := by decide +kernel
/-- V-CMD-8, V-CMD-11. -/
theorem test_write_short :
    frameWritten (.cmdWrite 0x00 2 5 [0xde, 0xad, 0xbe, 0xef] none false) =
      [.write [0x03, 0x0b, 0x12, 0x00, 0x15, 0x00, 0xde, 0xad, 0xbe, 0xef, 0xa3, 0x56] false] ∧
    answer (.cmdWrite 0x02 5 0 [0, 1, 2] none false) = some respBadOperand := by decide +kernel
/-- V-CMD-13, V-CMD-26. -/
theorem test_nonce_passthrough :
    frameWritten (.cmdNonce 0x03 (count 0 32)) =
      [.write ([0x03, 0x27, 0x16, 0x03, 0x00, 0x00] ++ count 0 32 ++ [0x04, 0xee]) false] ∧
    lastResponse (exec (.cmdNonce 0x03 (count 0 32)) (start (ackThen success))) = some (respOk [0x00]) := by
  decide +kernel
/-- V-CMD-27. -/
theorem test_nonce_seed :
    lastResponse (exec (.cmdNonce 0x00 (count 0 20)) (start (ackThen ([0x23] ++ rnd ++ [0x16, 0x7b] ++ zeros 3)))) =
      some (respOk rnd) := by decide +kernel
/-- V-CMD-15, V-CMD-24, V-CMD-25. -/
theorem test_gendig :
    frameWritten (.cmdGendig 0x02 3 []) = [.write [0x03, 0x07, 0x15, 0x02, 0x03, 0x00, 0x3f, 0x08] false] ∧
    lastResponse (exec (.cmdGendig 0x02 3 []) (start (ackThen success))) = some (respOk [0x00]) ∧
    lastResponse (exec (.cmdGendig 0x02 3 [])
      (start (ackThen ([0x07, 0x01, 0x23, 0x5d, 0xc2, 0xef, 0x3f] ++ zeros 31)))) = some (respCrcMismatch 2) := by
  decide +kernel
/-- V-CMD-16, Program 1 line 2. -/
theorem test_mac :
    frameWritten (.cmdMac 0 [] 0x01) = [.write [0x03, 0x07, 0x08, 0x01, 0x00, 0x00, 0x06, 0x67] false] ∧
    lastResponse (exec (.cmdMac 0 [] 0x01) (start (ackThen ([0x23] ++ expected ++ [0x4e, 0xfc] ++ zeros 3)))) =
      some (respOk expected) := by decide +kernel
/-- V-CMD-17, Program 4 line 2 with its variant. -/
theorem test_checkmac :
    frameWritten (.cmdCheckmac 7 (zeros 32) resp7 od7 0x00) =
      [.write ([0x03, 0x54, 0x28, 0x00, 0x07, 0x00] ++ zeros 32 ++ resp7 ++ od7 ++ [0x8c, 0x57]) false] ∧
    lastResponse (exec (.cmdCheckmac 7 (zeros 32) resp7 od7 0x00)
      (start (ackThen ([0x04, 0x01, 0x00, 0xc3] ++ zeros 34)))) = some (respChipError 0x01) := by decide +kernel
/-- V-CMD-18, V-CMD-19. -/
theorem test_lock :
    frameWritten (.cmdLock false 0x1234 false) = [.write [0x03, 0x07, 0x17, 0x00, 0x34, 0x12, 0x9d, 0x64] false] ∧
    frameWritten (.cmdLock true 0x0000 true) = [.write [0x03, 0x07, 0x17, 0x81, 0x00, 0x00, 0x3a, 0x07] false] := by
  decide +kernel
/-- V-SHA-2. -/
theorem test_sha256_abc : answer (.sha256 [0x61, 0x62, 0x63]) =
    some (respOk [0xba, 0x78, 0x16, 0xbf, 0x8f, 0x01, 0xcf, 0xea, 0x41, 0x41, 0x40, 0xde, 0x5d, 0xae, 0x22, 0x23,
      0xb0, 0x03, 0x61, 0xa3, 0x96, 0x17, 0x7a, 0x9c, 0xb4, 0x10, 0xff, 0x61, 0xf2, 0x00, 0x15, 0xad]) := by decide +kernel
/-- V-SHA-5: the smallest two-block message. -/
theorem test_sha256_two_blocks : answer (.sha256 (zeros 56)) =
    some (respOk [0xd4, 0x81, 0x7a, 0xa5, 0x49, 0x76, 0x28, 0xe7, 0xc7, 0x7e, 0x6b, 0x60, 0x61, 0x07, 0x04, 0x2b,
      0xbb, 0xa3, 0x13, 0x08, 0x88, 0xc5, 0xf4, 0x7a, 0x37, 0x5e, 0x61, 0x79, 0xbe, 0x78, 0x9f, 0xbb]) := by decide +kernel
/-- V-KEY-1. -/
theorem test_derivekey : answer (.derivekey root 0x0000 serial) = some (respOk dk) := by decide +kernel
/-- V-KEY-2: both bytes of `target_slot` are hashed, low byte first. -/
theorem test_derivekey_slot : answer (.derivekey root 0x0102 serial) =
    some (respOk [0x09, 0xcf, 0x09, 0x6f, 0x2d, 0xf4, 0x48, 0x63, 0x69, 0x47, 0x70, 0x75, 0x50, 0x88, 0x80, 0xde,
      0x8a, 0x90, 0x57, 0x19, 0x14, 0xac, 0xf2, 0x9a, 0xf3, 0x8d, 0x08, 0xe7, 0x1b, 0x63, 0x73, 0x6e]) := by decide +kernel
/-- V-KEY-4. -/
theorem test_noncemix : answer (.noncemix rnd input20 0x00) = some (respOk cn0) := by decide +kernel
/-- V-KEY-5. -/
theorem test_noncemix_passthrough :
    answer (.noncemix rnd input20 0x03) = some (respOk input20) ∧
    answer (.noncemix rnd (count 0 33) 0x03) = some respBadOperand := by decide +kernel
/-- V-KEY-7. -/
theorem test_sesskey : answer (.sesskey k3 3 serial (count 0 32)) = some (respOk sk3) := by decide +kernel
/-- V-KEY-8. -/
theorem test_xor32 :
    answer (.xor32 plain sk3) = some (respOk ct) ∧ answer (.xor32 ct sk3) = some (respOk plain) ∧
    answer (.xor32 plain (zeros 31)) = some respBadOperand := by decide +kernel
/-- V-KEY-9. -/
theorem test_wrmac : answer (.wrmac sk3 5 serial plain) = some (respOk mac9) := by decide +kernel
/-- V-KEY-10. -/
theorem test_wrmac_slot15 :
    answer (.wrmac sk3 15 serial plain) =
      some (respOk [0x1d, 0x88, 0x48, 0x36, 0x87, 0x2f, 0x0e, 0xe2, 0xe3, 0xb1, 0xad, 0x52, 0xe8, 0x62, 0xd2, 0xd9,
        0x1a, 0xc5, 0x32, 0x2f, 0x73, 0x86, 0x96, 0x40, 0xec, 0x31, 0x7b, 0xf4, 0xa2, 0x04, 0x39, 0x8f]) ∧
    answer (.wrmac sk3 16 serial plain) = some respBadOperand := by decide +kernel
/-- V-KEY-11, under the default `OD_LAYOUT`. -/
theorem test_macresp : answer (.macresp dk cn0 ([0x08, 0x01, 0x00] ++ zeros 10)) = some (respOk expected) := by
  decide +kernel
/-- V-KEY-11, the layout check with distinct bytes. -/
theorem test_interleave : interleave defaultOdLayout (count 0x10 13) =
    [0x10, 0x11, 0x12, 0x13, 0x00, 0x00, 0x00, 0x00, 0x00, 0x00, 0x00, 0x00, 0x14, 0x15, 0x16, 0xee,
     0x17, 0x18, 0x19, 0x1a, 0x01, 0x23, 0x1b, 0x1c] := by decide
/-- V-KEY-12, under the default `OD_LAYOUT`. -/
theorem test_validate : answer (.validate serial rnd input20 root 0 0x00) = some (respOk expected) := by decide +kernel
/-- V-KEY-12, the pass-through nonce of 20 bytes. -/
theorem test_validate_passthrough : answer (.validate serial rnd input20 root 0 0x03) = some respBadOperand := by
  decide +kernel
/-- Program 3 line 1: a frame on the transport, its 32 bytes read. -/
theorem test_wire_read :
    lastResponse (exec (.wireRead ⟨0x07, 0x80, 0x0000, [], 0xad09⟩)
      (start (ackThen ([0x23] ++ count 0 32 ++ [0x70, 0xfa] ++ zeros 3)))) = some (respOk (count 0 32)) := by decide +kernel
/-- V-CMD-8 on the transport. -/
theorem test_wire_write :
    wireOfOutcome (exec (.wireWrite ⟨0x0b, 0x00, 0x0015, [0xde, 0xad, 0xbe, 0xef], 0x56a3⟩)
      (start [.writeAnswer false])) =
        [.write [0x03, 0x0b, 0x12, 0x00, 0x15, 0x00, 0xde, 0xad, 0xbe, 0xef, 0xa3, 0x56] false] := by decide +kernel
/-- V-CMD-27 on the transport. -/
theorem test_wire_nonce :
    lastResponse (exec (.wireNonce ⟨0x1b, 0x00, 0x0000, count 0 20, 0xb553⟩)
      (start (ackThen ([0x23] ++ rnd ++ [0x16, 0x7b] ++ zeros 3)))) = some (respOk rnd) := by decide +kernel
/-- V-CMD-24 on the transport. -/
theorem test_wire_gendig :
    lastResponse (exec (.wireGendig ⟨0x07, 0x02, 0x0003, [], 0x083f⟩) (start (ackThen success))) =
      some (respOk [0x00]) := by decide +kernel
/-- Program 1 line 2 on the transport. -/
theorem test_wire_mac :
    lastResponse (exec (.wireMac ⟨0x07, 0x01, 0x0000, [], 0x6706⟩)
      (start (ackThen ([0x23] ++ expected ++ [0x4e, 0xfc] ++ zeros 3)))) = some (respOk expected) := by decide +kernel
/-- Program 4 line 2 on the transport. -/
theorem test_wire_checkmac :
    lastResponse (exec (.wireCheckmac ⟨0x54, 0x00, 0x0007, zeros 32 ++ resp7 ++ od7, 0x578c⟩) (start (ackThen success))) =
      some (respOk [0x00]) := by decide +kernel
/-- V-CMD-18 on the transport, every read answered `Nack`. -/
theorem test_wire_lock :
    lastResponse (exec (.wireLock ⟨0x07, 0x00, 0x1234, [], 0x649d⟩)
      (start [.writeAnswer true, .readAnswer none, .readAnswer none, .readAnswer none])) = some respNoResponse := by
  decide +kernel
/-- V-CMD-22: the response of one byte where 4 were expected. -/
theorem test_response :
    lastResponse (exec (.response 0x04 [0x00, 0x03, 0x40])
      { start [] with busy := true, stage := .received, codec := { resetCodec with dataLen := some 4 } }) =
        some (respCrcMismatch 2) := by decide +kernel

/-! ## The machine: Program 5 of the spec -/

/-- Line 1. -/
theorem test_step_bad_opsel :
    step (start [.request ⟨0x02, []⟩]) = .next { start [] with delivered := [respBadOpsel] } := by rfl
/-- Line 7: a second request presented while an operation runs. -/
theorem test_step_busy :
    nextState (step (start [.request ⟨0x34, [.bytes plain, .bytes sk3]⟩, .during (.request ⟨0x02, []⟩)])) =
      some { start [] with delivered := [respBusy, respOk ct] } := by decide +kernel
/-- R191: a reset while an operation runs. -/
theorem test_step_reset_during :
    nextState (step (start [.request ⟨0x34, [.bytes plain, .bytes sk3]⟩, .during .reset])) = some (start []) := by decide +kernel

/-! ## The obligations of a host -/

/-- A plain slot. -/
def plainSlot : SlotPolicy := { isSecret := false, writeKeySlot := none, readKeySlot := none, checkOnly := false }

/-- Slot 5 is secret, read and written under the key of slot 3 (program 2); the Config image is that of program 3, and its
last two bytes stand for the locks. -/
def plan : HostPlan :=
  { params := params
    policies := List.replicate 5 plainSlot ++
      [{ isSecret := true, writeKeySlot := some 3, readKeySlot := some 3, checkOnly := false }] ++
      List.replicate 10 plainSlot
    configImage := count 0 88
    dataImage := zeros 576
    configLock := { addr := 87, unlocked := 0x57 }
    dataLock := { addr := 86, unlocked := 0x56 } }

/-- A run is safe from the start on. -/
def safe (run : List Exchange) : Bool := hostSafe plan HostView.start run

/-- An exchange of host 0. -/
def ex (sequence : Option Nat) (i : Instr) (r : Response) : Exchange :=
  { host := 0, sequence := sequence, instr := i, response := some r }

/-- An exchange of host 0 that a reset cut short (R191). -/
def cut (sequence : Option Nat) (i : Instr) : Exchange := { host := 0, sequence := sequence, instr := i, response := none }

/-- Lines 1 to 4 of program 2 as run `q` of a sequence. -/
def sessionRun (q : Nat) : List Exchange :=
  [ex (some q) (.cmdNonce 0x03 (count 0 32)) (respOk [0x00]), ex (some q) (.noncemix (zeros 32) (count 0 32) 0x03) (respOk (count 0 32)),
   ex (some q) (.cmdGendig 0x02 3 []) (respOk [0x00]), ex (some q) (.sesskey k3 3 serial (count 0 32)) (respOk sk3)]

/-- Line 11 of program 2. -/
def readRun (q : Nat) : Exchange := ex (some q) (.cmdRead 0x02 5 0 false) (respOk ct)

/-- Lines 5 to 7 of program 2. -/
def writeRun (q : Nat) : List Exchange :=
  [ex (some q) (.xor32 plain sk3) (respOk ct), ex (some q) (.wrmac sk3 5 serial plain) (respOk mac9),
   ex (some q) (.cmdWrite 0x02 5 0 ct (some mac9) false) (respOk [0x00])]

/-- Program 2. -/
theorem test_host_program2 :
    safe (sessionRun 1 ++ writeRun 1 ++ sessionRun 2 ++ [readRun 2, ex (some 2) (.xor32 ct sk3) (respOk plain)]) = true := by
  decide +kernel
/-- R195: a second encrypted read under one nonce; the hazard of program 2. -/
theorem test_host_second_read : safe (sessionRun 1 ++ [readRun 1, readRun 1]) = false := by decide +kernel
/-- R195: one session key, two uses; and a key of an earlier nonce. -/
theorem test_host_key_reuse :
    safe (sessionRun 1 ++ [ex (some 1) (.xor32 plain sk3) (respOk ct), ex (some 1) (.xor32 ct sk3) (respOk plain)]) = false ∧
    safe (sessionRun 1 ++ [ex (some 2) (.cmdNonce 0x03 (zeros 32)) (respOk [0x00]),
      ex (some 2) (.xor32 plain sk3) (respOk ct)]) = false := by decide +kernel
/-- R202: an encrypted Read without GenDig, after a GenDig refused, under the wrong key; an encrypted Write without MAC. -/
theorem test_host_gendig_first :
    safe [ex (some 1) (.cmdNonce 0x03 (count 0 32)) (respOk [0x00]), readRun 1] = false ∧
    safe [ex (some 1) (.cmdNonce 0x03 (count 0 32)) (respOk [0x00]), ex (some 1) (.cmdGendig 0x02 16 []) respBadOperand,
      readRun 1] = false ∧
    safe [ex (some 1) (.cmdNonce 0x03 (count 0 32)) (respOk [0x00]), ex (some 1) (.cmdGendig 0x02 4 []) (respOk [0x00]),
      readRun 1] = false ∧
    safe [ex none (.cmdWrite 0x02 4 0 plain none true) (respOk [0x00])] = false := by decide +kernel
/-- R191, R198: a GenDig issued again after `NoResponse` or after a reset; and a reset during a pure operation. -/
theorem test_host_gendig_again :
    let nonce := ex (some 1) (.cmdNonce 0x03 (count 0 32)) (respOk [0x00])
    let gendig := ex (some 1) (.cmdGendig 0x02 3 []) (respOk [0x00])
    safe [nonce, { gendig with response := some respNoResponse }, gendig] = false ∧
    safe [nonce, { gendig with response := none }, gendig] = false ∧
    safe [nonce, gendig, cut (some 1) (.cmdRead 0x02 5 0 false), readRun 1] = false ∧
    safe [nonce, cut (some 1) (.sesskey k3 3 serial (count 0 32)), gendig, readRun 1] = true := by decide +kernel
/-- R191: a Write that a reset cut short is read before it is written again. -/
theorem test_host_write_cut :
    let write := Instr.cmdWrite 0x01 0 0 plain none false
    safe [cut none write, ex none write (respOk [0x00])] = false ∧
    safe [cut none write, ex none (.cmdRead 0x01 0 0 true) (respOk (zeros 4)), ex none write (respOk [0x00])] = false ∧
    safe [cut none write, ex none (.cmdRead 0x01 0 0 false) (respOk (zeros 32)), ex none write (respOk [0x00])] = true := by
  decide +kernel
/-- R196: the owner's own SEND or Lock inside a sequence, and another host's Read. -/
theorem test_host_lease :
    let nonce := ex (some 1) (.cmdNonce 0x00 input20) (respOk rnd)
    let mac := ex (some 1) (.cmdMac 0 [] 0x01) (respOk dk)
    let other : Exchange := { host := 1, sequence := none, instr := .cmdRead 0x00 0 0 true, response := some (respOk (zeros 4)) }
    let send := Instr.send 0x02 0x00 0x0000 [] 38
    safe [nonce, mac, other] = true ∧ safe [nonce, other, mac] = false ∧
    safe [nonce, ex none send (respOk (zeros 4)), mac] = false ∧
    safe [nonce, ex (some 1) send (respOk (zeros 4)), mac] = false ∧
    safe [{ nonce with response := some respNoResponse }, other] = true := by decide +kernel
/-- R191: the same with bare SENDs of the Write frame, cut or sent again; a SEND of another location is not barred. -/
theorem test_host_send_cut :
    let send (param2 : Half) := Instr.send 0x12 0x81 param2 plain 38
    let read := ex none (.cmdRead 0x01 0 0 false) (respOk (zeros 32))
    safe [cut none (send 0), ex none (send 0) (respOk [0x00])] = false ∧
    safe [cut none (send 0), ex none (.cmdWrite 0x01 0 0 plain none false) (respOk [0x00])] = false ∧
    safe [cut none (.cmdWrite 0x01 0 0 plain none false), ex none (send 0) (respOk [0x00])] = false ∧
    safe [cut none (send 0), read, ex none (send 0) (respOk [0x00])] = true ∧
    safe [cut none (send 0), ex none (send 8) (respOk [0x00])] = true := by decide +kernel
/-- R199, R202: a bare SEND of a Lock or of an encrypted Read is guarded as the command is; and how a SEND is read. -/
theorem test_host_send_guarded :
    safe [ex none (.send 0x17 0x80 0x0000 [] 38) (respOk [0x00])] = false ∧
    safe [ex none (.send 0x02 0x82 0x0028 [] 38) (respOk ct)] = false ∧
    onTheWire params (.send 0x12 0xC2 0x0028 (ct ++ mac9) 38) = .cmdWrite 0x02 5 0 ct (some mac9) true ∧
    onTheWire params (.send 0x28 0x00 0x0007 (zeros 32 ++ resp7 ++ od7) 38) = .cmdCheckmac 7 (zeros 32) resp7 od7 0x00 ∧
    (ex none (.send 0x17 0x00 0xc48c [] 38) (respOk (zeros 4))).onTheWire params =
      ex none (.cmdLock false 0xc48c false) (respCrcMismatch 0x02) := by decide +kernel
/-- R200: looping CHECKKEY on a `ChipError`, with a Write in between too, and with a bare SEND. -/
theorem test_host_rejection_loop :
    let lines (q : Nat) := [ex (some q) (.macresp k3 (zeros 32) od7) (respOk resp7),
      ex (some q) (.cmdCheckmac 7 (zeros 32) resp7 od7 0x00) (respChipError 0x01)]
    let otp := ex none (.cmdWrite 0x01 0 0 plain none false) (respOk [0x00])
    safe (lines 1) = true ∧ safe (lines 1 ++ lines 2) = false ∧ safe (lines 1 ++ [otp]) = true ∧
    safe (lines 1 ++ [otp] ++ lines 2) = false ∧
    safe (lines 1 ++ [ex none (.send 0x28 0x00 0x0007 (zeros 32 ++ resp7 ++ od7) 38) (respChipError 0x01)]) = false := by
  decide +kernel
/-- R200: an encrypted Write that was rejected, under a new Nonce with other ciphertext and MAC. -/
theorem test_host_rejected_write :
    let write (q : Nat) (d m : Bytes) (r : Response) := ex (some q) (.cmdWrite 0x02 5 0 d (some m) false) r
    safe (sessionRun 1 ++ [write 1 ct mac9 (respChipError 0x01)] ++ sessionRun 2) = true ∧
    safe (sessionRun 1 ++ [write 1 ct mac9 (respChipError 0x01)] ++ sessionRun 2 ++ [write 2 plain sk3 (respOk [0x00])]) =
      false := by decide +kernel
/-- R163: the reading of line 2 of CHECKKEY (program 4). -/
theorem test_host_checkkey_verdict :
    checkkeyVerdict 7 (respOk [0x00]) = .holds ∧
    checkkeyVerdict 7 (respChipError 0x01) = .failed (.keyVerificationFailed 7) ∧
    checkkeyVerdict 7 respNoResponse = .unknown := by decide

/-- Lines 1 to 3 of program 3: the Config zone is read back. -/
def configReads : List Exchange :=
  [ex none (.cmdRead 0x00 0 0 false) (respOk (count 0 32)), ex none (.cmdRead 0x00 1 0 false) (respOk (count 32 32))] ++
    (List.range 6).map fun j => ex none (.cmdRead 0x00 2 j true) (respOk (count (64 + 4 * j) 4))

/-- Lines 5 and 7 of program 3, and Locks that are not guarded: without a full read-back, without the CRC16, with another
checksum, of a Data zone that comes first; and a Lock that skips the checksum (R199). -/
theorem test_host_lock :
    let crc := ex none (.crc16 (count 0 88) 0 88) (respU16 0xc48c)
    let lock := fun (ck : Half) (skip : Bool) => ex none (.cmdLock false ck skip) (respOk [0x00])
    safe (configReads ++ [crc, lock 0xc48c false]) = true ∧ safe (configReads ++ [crc, lock 0x0000 true]) = true ∧
    safe (configReads.drop 1 ++ [crc, lock 0xc48c false]) = false ∧ safe [crc, lock 0x0000 true] = false ∧
    safe (configReads ++ [lock 0xc48c false]) = false ∧ safe (configReads ++ [crc, lock 0xc48d false]) = false ∧
    safe (configReads ++ [crc, ex none (.cmdLock true 0xc48c false) (respOk [0x00])]) = false := by decide +kernel
/-- R199: a CRC16 that is not the intended one is fatal, whatever is read and computed afterwards. -/
theorem test_host_lock_mismatch :
    let reads := ex none (.cmdRead 0x00 0 0 true) (respOk (zeros 4)) :: []
    let wrong := configReads ++ reads ++ [ex none (.crc16 (zeros 4 ++ count 4 84) 0 88) (respU16 (crcOf (zeros 4 ++ count 4 84)))]
    let crc := ex none (.crc16 (count 0 88) 0 88) (respU16 0xc48c)
    safe (wrong ++ configReads ++ [crc]) = true ∧
    safe (wrong ++ configReads ++ [crc, ex none (.cmdLock false 0xc48c false) (respOk [0x00])]) = false := by decide +kernel
/-- R191, R199: after an uncertain Lock, or one a reset cut short, the lock state is read back before anything else; the
Lock is issued again only if it was read as open, and after a new CRC16. -/
theorem test_host_lock_uncertain :
    let crc := ex none (.crc16 (count 0 88) 0 88) (respU16 0xc48c)
    let lock := ex none (.cmdLock false 0xc48c false) respNoResponse
    let run := configReads ++ [crc, lock]
    let locked := ex none (.cmdRead 0x00 2 5 true) (respOk [0x54, 0x55, 0x56, 0x00])
    safe (run ++ [lock]) = false ∧ safe (run ++ [crc]) = false ∧ safe (run ++ configReads ++ [lock]) = false ∧
    safe (run ++ configReads ++ [crc, lock]) = true ∧ safe (run ++ configReads.take 1 ++ [crc]) = false ∧
    safe (configReads ++ [crc, { lock with response := none }, crc]) = false ∧
    safe (run ++ [locked] ++ configReads ++ [crc, lock]) = false := by decide +kernel
/-- R199: what the read-back of the lock state says is followed: locked, open, not read, and a rejected Lock. -/
theorem test_host_lock_read_back :
    let after (r : Option Response) (d : Bytes) :=
      [({ host := 0, sequence := none, instr := .cmdLock false 0xc48c false, response := r } : Exchange),
        ex none (.cmdRead 0x00 2 5 true) (respOk d)].foldl (HostView.follow plan) HostView.start
    ((after none [0x54, 0x55, 0x56, 0x00]).configLocked = true ∧ (after none [0x54, 0x55, 0x56, 0x00]).unresolvedLock = none) ∧
    ((after none [0x54, 0x55, 0x56, 0x57]).configLocked = false ∧ (after none [0x54, 0x55, 0x56, 0x57]).unresolvedLock = none) ∧
    (after none [0x54]).unresolvedLock = some (0, false) ∧
    (after (some (respChipError 0x01)) [0x54]).configCheck = .failed := by decide +kernel

/-! ## Witnesses: the hypotheses of each obligation hold together somewhere, at the edges of their ranges -/

/-- Inputs: an acknowledged write, `k` reads answered `Nack`, then the bytes. -/
def bytesAt (k : Nat) (rx : Bytes) : List Input :=
  .writeAnswer true :: (List.replicate k (.readAnswer none) ++ .readAnswer (some rx) :: [])

/-- Every read answered `Nack`. -/
def allNack : List Input := .writeAnswer true :: (List.replicate params.pollMax (.readAnswer none) ++ [])

/-- The state meets the transport hypotheses of `RunsFrame.bytesRead` for reads of `n` bytes. -/
def MeetsBytes (s : State) (n : Nat) : Prop :=
  ∃ (k : Nat) (rx : Bytes) (rest : List Input), k < s.params.pollMax ∧ rx.length = n ∧ quiet rest = true ∧
    s.inputs = .writeAnswer true :: (List.replicate k (.readAnswer none) ++ .readAnswer (some rx) :: rest)

/-- The first and the last read that may return bytes, and reads of 4, 38 and 255 bytes. -/
theorem witness_RunsFrame_bytes :
    MeetsBytes (start (bytesAt 0 success)) 38 ∧ MeetsBytes (start (bytesAt 2 success)) 38 ∧
    MeetsBytes (start (bytesAt 0 (zeros 4))) 4 ∧ MeetsBytes (start (bytesAt 2 (zeros 255))) 255 :=
  ⟨⟨0, success, [], by decide, rfl, rfl, rfl⟩, ⟨2, success, [], by decide, rfl, rfl, rfl⟩,
   ⟨0, zeros 4, [], by decide, rfl, rfl, rfl⟩, ⟨2, zeros 255, [], by decide, rfl, rfl, rfl⟩⟩

theorem witness_RunsFrame_nack :
    (∃ rest : List Input, quiet rest = true ∧ (start [.writeAnswer false]).inputs = .writeAnswer false :: rest) ∧
    ∃ rest : List Input, quiet rest = true ∧
      (start allNack).inputs = .writeAnswer true :: (List.replicate params.pollMax (.readAnswer none) ++ rest) :=
  ⟨⟨[], rfl, rfl⟩, ⟨[], rfl, rfl⟩⟩

theorem witness_Crc16AnswersTheCrcOfTheRange :
    quiet (start []).inputs = true ∧ 1 + 2 ≤ ([0xaa, 0x04, 0x11] : Bytes).length ∧
    3 + 0 ≤ ([0xaa, 0x04, 0x11] : Bytes).length ∧ ([0xaa, 0x04, 0x11] : Bytes).length < 4 + 0 := by decide
theorem witness_CrcIsLinear : ([0x01, 0x02] : Bytes).length = ([0x02, 0x01] : Bytes).length := rfl
theorem witness_OneChangedByteChangesTheCrc : (0x00 : Byte) ≠ 0x01 ∧ (0x28 : Byte) ≠ 0x29 := by decide
theorem witness_LockChecksumsCoverTheWholeImages :
    (List.replicate 16 root).length = 16 ∧ (List.replicate 2 root).length = 2 ∧
    (∀ k ∈ List.replicate 16 root, k.length = 32) ∧ (∀ o ∈ List.replicate 2 root, o.length = 32) ∧
    (count 0 88).length = 88 := by decide
theorem witness_FrameAnswersTheFrame :
    quiet (start []).inputs = true ∧ 8 + (zeros 77).length ≤ (start []).params.frameMax ∧
    (start []).params.frameMax < 8 + (zeros 78).length := by decide
theorem witness_EveryBuiltFrameIsWellFormed :
    paramsLegal (defaultParams 1 256) = true ∧ 8 + (zeros 248).length ≤ (defaultParams 1 256).frameMax ∧
    paramsLegal (defaultParams 1 8) = true ∧ 8 + (zeros 0).length ≤ (defaultParams 1 8).frameMax := by decide
theorem witness_ParseChecksLengthThenCrcThenEnvelope : quiet (start [.request ⟨0x00, []⟩]).inputs = true := rfl
theorem witness_ParseOfABuiltResponseIsItsData :
    (1 ≤ ([0x00] : Bytes).length ∧ ([0x00] : Bytes).length ≤ 252 ∧
      (([0x00] : Bytes).length = 1 → ([0x00] : Bytes) = [0x00])) ∧
    1 ≤ (count 0 252).length ∧ (count 0 252).length ≤ 252 ∧ ((count 0 252).length = 1 → count 0 252 = [0x00]) := by
  decide
theorem witness_OneCorruptedDataByteIsACrcMismatch :
    (0x00 : Byte) ≠ 0x0f ∧ ([] ++ (0x00 : Byte) :: [] : Bytes).length ≤ 252 ∧
    (count 0 100 ++ (0x00 : Byte) :: count 0 151).length ≤ 252 := by decide
theorem witness_SendWritesOnceAndPollsUntilBytes :
    8 + (zeros 77).length ≤ (start (bytesAt 0 success)).params.frameMax ∧ MeetsBytes (start (bytesAt 0 (zeros 4))) 4 ∧
    MeetsBytes (start (bytesAt 2 (zeros 255))) 255 ∧ quiet (start []).inputs = true ∧
    (3 < 4 ∨ 255 < 3) ∧ (256 < 4 ∨ 255 < 256) ∧ (start []).params.frameMax < 8 + (zeros 78).length :=
  ⟨by decide, witness_RunsFrame_bytes.2.2.1, witness_RunsFrame_bytes.2.2.2, rfl, by decide, by decide, by decide⟩
theorem witness_SendFailsAfterExactlyPollMaxReads :
    4 ≤ 38 ∧ 38 ≤ 255 ∧ 8 + (zeros 77).length ≤ (start allNack).params.frameMax ∧ quiet ([] : List Input) = true ∧
    (start allNack).inputs =
      .writeAnswer true :: (List.replicate (start allNack).params.pollMax (.readAnswer none) ++ []) ∧
    (start [.writeAnswer false]).inputs = .writeAnswer false :: [] := by decide
theorem witness_OneWriteThenAtMostPollMaxReads :
    ∃ t, exec (.send 0x02 0x00 0x0000 [] 38) (start allNack) = .next t := ⟨_, rfl⟩
theorem witness_CmdReadSendsItsFrame :
    namesZone params 0x02 ∧ 8 * 8191 + 7 < 65536 ∧ 8 ≤ params.frameMax ∧ MeetsBytes (start (bytesAt 0 success)) 38 ∧
    quiet (start []).inputs = true ∧ ¬ namesZone params 0x03 ∧ 65536 ≤ 8 * 8192 + 0 ∧
    (defaultParams 3 7).frameMax < 8 :=
  ⟨.inr (.inr rfl), by decide, by decide, witness_RunsFrame_bytes.1, rfl, by unfold namesZone; decide, by decide,
   by decide⟩
theorem witness_CmdWriteSendsItsFrame :
    namesZone params 0x00 ∧ ((zeros 32).length = 4 ∨ (zeros 32).length = 32) ∧ (∀ m ∈ some (zeros 32), m.length = 32) ∧
    8 + (zeros 32 ++ (some (zeros 32)).getD []).length ≤ params.frameMax ∧
    ((zeros 4).length = 4 ∨ (zeros 4).length = 32) ∧ (∀ m ∈ (none : Option Bytes), m.length = 32) ∧
    MeetsBytes (start (bytesAt 2 success)) 38 ∧ quiet (start []).inputs = true ∧
    ((zeros 3).length ≠ 4 ∧ (zeros 3).length ≠ 32) ∧ (∃ m ∈ some (zeros 31), m.length ≠ 32) ∧
    (defaultParams 3 71).frameMax < 8 + (zeros 32 ++ (some (zeros 32)).getD []).length ∧ 8 * 8191 + 7 < 65536 ∧
    65536 ≤ 8 * 8192 + 0 ∧ ¬ namesZone params 0x03 :=
  ⟨.inl rfl, by decide, by decide, by decide, by decide, by decide, witness_RunsFrame_bytes.2.1, rfl, by decide,
   ⟨_, rfl, by decide⟩, by decide, by decide, by decide, by unfold namesZone; decide⟩
theorem witness_CmdNonceSendsItsFrame :
    (zeros 20).length ≤ (if (0x00 : Byte) = 0x03 then 32 else 20) ∧ 8 + (zeros 20).length ≤ params.frameMax ∧
    (zeros 32).length ≤ (if (0x03 : Byte) = 0x03 then 32 else 20) ∧ 8 + (zeros 32).length ≤ params.frameMax ∧
    MeetsBytes (start (bytesAt 0 success)) 38 ∧ quiet (start []).inputs = true ∧
    (if (0x00 : Byte) = 0x03 then 32 else 20) < (zeros 21).length ∧
    (if (0x03 : Byte) = 0x03 then 32 else 20) < (zeros 33).length ∧ (defaultParams 3 27).frameMax < 8 + (zeros 20).length :=
  ⟨by decide, by decide, by decide, by decide, witness_RunsFrame_bytes.1, rfl, by decide, by decide, by decide⟩
theorem witness_CmdGendigSendsItsFrame :
    namesZone params 0x01 ∧ 15 ≤ 15 ∧ 8 + (zeros 77).length ≤ params.frameMax ∧ MeetsBytes (start (bytesAt 0 success)) 38 ∧
    quiet (start []).inputs = true ∧ ¬ namesZone params 0xff ∧ 15 < 16 ∧ params.frameMax < 8 + (zeros 78).length :=
  ⟨.inr (.inl rfl), by decide, by decide, witness_RunsFrame_bytes.1, rfl, by unfold namesZone; decide, by decide,
   by decide⟩
theorem witness_CmdMacSendsItsFrame :
    15 ≤ 15 ∧ ((zeros 0).length = 0 ∨ (zeros 0).length = 32) ∧ ((zeros 32).length = 0 ∨ (zeros 32).length = 32) ∧
    8 + (zeros 32).length ≤ params.frameMax ∧ MeetsBytes (start (bytesAt 0 success)) 38 ∧ quiet (start []).inputs = true ∧
    15 < 16 ∧ ((zeros 5).length ≠ 0 ∧ (zeros 5).length ≠ 32) ∧ (defaultParams 3 39).frameMax < 8 + (zeros 32).length :=
  ⟨by decide, by decide, by decide, by decide, witness_RunsFrame_bytes.1, rfl, by decide, by decide, by decide⟩
theorem witness_CmdCheckmacSendsItsFrame :
    15 ≤ 15 ∧ (zeros 32).length = 32 ∧ resp7.length = 32 ∧ od7.length = 13 ∧ 85 ≤ params.frameMax ∧
    MeetsBytes (start (bytesAt 0 success)) 38 ∧ quiet (start []).inputs = true ∧ 15 < 16 ∧ (zeros 31).length ≠ 32 ∧
    (zeros 14).length ≠ 13 ∧ (defaultParams 3 84).frameMax < 85 :=
  ⟨by decide, rfl, rfl, rfl, by decide, witness_RunsFrame_bytes.1, rfl, by decide, by decide, by decide, by decide⟩
theorem witness_CmdLockSendsItsFrame :
    8 ≤ (defaultParams 3 8).frameMax ∧ MeetsBytes (start (bytesAt 0 success)) 38 ∧ quiet (start []).inputs = true ∧
    (defaultParams 3 7).frameMax < 8 := ⟨by decide, witness_RunsFrame_bytes.1, rfl, by decide⟩
theorem witness_PaddingIsTheShortestToWholeBlocks : (55 + 1 + 0 + 8) % 64 = 0 ∧ (56 + 1 + 63 + 8) % 64 = 0 := by decide
theorem witness_CompressionFollowsItsPseudocode :
    (zeros 64).length = 64 ∧ 0 < 16 ∧ 15 < 16 ∧ 16 ≤ 16 ∧ 16 ≤ 63 ∧ 63 < 64 := by decide
theorem witness_Sha256AnswersTheDigest :
    quiet (start []).inputs = true ∧ ([] : Bytes).length < 2 ^ 61 ∧ (zeros 56).length < 2 ^ 61 := by decide
theorem witness_DerivekeyHashesItsLayout :
    quiet (start []).inputs = true ∧ root.length = 32 ∧ 65535 < 65536 ∧ serial.length = 9 ∧ (zeros 31).length ≠ 32 ∧
    65536 ≤ 65536 ∧ (zeros 10).length ≠ 9 := by decide
theorem witness_NoncemixHashesOrPassesThrough :
    quiet (start []).inputs = true ∧ rnd.length = 32 ∧ (0x03 : Byte) = 0x03 ∧ (count 0 32).length ≤ 32 ∧
    (0x00 : Byte) ≠ 0x03 ∧ input20.length ≤ 20 ∧ (zeros 33).length ≠ 32 ∧
    (if (0x03 : Byte) = 0x03 then 32 else 20) < (zeros 33).length ∧
    (if (0x00 : Byte) = 0x03 then 32 else 20) < (zeros 21).length := by decide
theorem witness_SesskeyHashesItsLayout :
    quiet (start []).inputs = true ∧ k3.length = 32 ∧ 15 ≤ 15 ∧ serial.length = 9 ∧ cn0.length = 32 ∧
    (zeros 31).length ≠ 32 ∧ 15 < 16 ∧ (zeros 8).length ≠ 9 ∧ input20.length ≠ 32 := by decide
theorem witness_Xor32XorsLaneByLane :
    quiet (start []).inputs = true ∧ plain.length = 32 ∧ sk3.length = 32 ∧ 0 < 32 ∧ 31 < 32 ∧ (zeros 31).length ≠ 32 := by
  decide
theorem witness_XorBytesIsItsOwnInverse : plain.length = sk3.length := rfl
theorem witness_WrmacHashesItsLayout :
    quiet (start []).inputs = true ∧ sk3.length = 32 ∧ 15 ≤ 15 ∧ serial.length = 9 ∧ plain.length = 32 ∧
    (zeros 33).length ≠ 32 ∧ 15 < 16 ∧ (zeros 8).length ≠ 9 := by decide
theorem witness_MacrespHashesKeyChallengeOtherData :
    quiet (start []).inputs = true ∧ dk.length = 32 ∧ cn0.length = 32 ∧ od7.length = 13 ∧ (zeros 31).length ≠ 32 ∧
    (zeros 14).length ≠ 13 := by decide
theorem witness_DefaultOdLayoutInterleavesTo24Bytes : od7.length = 13 := rfl
theorem witness_ValidateComposesTheChains :
    quiet (start []).inputs = true ∧ serial.length = 9 ∧ rnd.length = 32 ∧ root.length = 32 ∧ 15 ≤ 15 ∧
    (if (0x03 : Byte) = 0x03 then (count 0 32).length = 32 else (count 0 32).length ≤ 20) ∧
    (if (0x00 : Byte) = 0x03 then input20.length = 32 else input20.length ≤ 20) ∧ (zeros 8).length ≠ 9 ∧
    (zeros 31).length ≠ 32 ∧ 15 < 16 ∧ (if (0x03 : Byte) = 0x03 then input20.length ≠ 32 else 20 < input20.length) ∧
    (if (0x00 : Byte) = 0x03 then (zeros 21).length ≠ 32 else 20 < (zeros 21).length) := by decide
theorem witness_EncreadDecryptsWhatEncwriteEncrypts : plain.length = 32 ∧ quiet (start []).inputs = true := by decide
theorem witness_WireFramesRunTheirCommand :
    MeetsBytes (start (bytesAt 0 success)) 38 ∧ MeetsBytes (start (bytesAt 2 success)) 38 :=
  ⟨witness_RunsFrame_bytes.1, witness_RunsFrame_bytes.2.1⟩
theorem witness_ResponseEndsTheOperationInFlight : quiet (start []).inputs = true := rfl
theorem witness_EachCommandRunsAsItsWireFrame :
    paramsLegal params = true ∧
    ∀ i ∈ [Instr.cmdRead 0x02 8191 7 false, .cmdWrite 0x02 5 0 ct (some mac9) true, .cmdNonce 0x03 (count 0 32),
        .cmdGendig 0x02 15 [], .cmdMac 15 [] 0x01, .cmdCheckmac 15 (zeros 32) resp7 od7 0x00, .cmdLock true 0xffff false],
      isCommand i = true ∧ wellFormed params i = true ∧
        (match i with
          | .send _ _ _ _ _ => false
          | _ => true) = true := by decide
theorem witness_DecodeOfEncodeIsTheInstruction : paramsLegal params = true := by decide
theorem witness_EncodeOfDecodeIsTheCode :
    decode params (.request ⟨0x30, [.bytes [0x61]]⟩) = .ok (.sha256 [0x61]) ∧
    decode params (.frame [0x03, 0x07, 0x08, 0x01, 0x00, 0x00, 0x06, 0x67]) = .ok (.wireMac ⟨0x07, 0x01, 0x0000, [], 0x6706⟩) ∧
    decode params (.response [0x00]) = .ok (.response 0x00 []) := by decide
theorem witness_UnassignedOpselIsRefusedWithBadOpsel :
    (start [.request ⟨0x38, []⟩]).stage = .idle ∧ (start [.request ⟨0x38, []⟩]).busy = false ∧
    (start [.request ⟨0x38, []⟩]).inputs = .request ⟨0x38, []⟩ :: [] ∧ quiet ([] : List Input) = true ∧
    ∀ n ∈ [0x00, 0x02, 0x0f, 0x13, 0x1f, 0x27, 0x2f, 0x38, 0xff], n ∉ assignedOpsels := by decide
/-- (1) The arrival between the `TxWrite` and a `TxRead`, between two `TxRead`s, after the successful read, and after the
last `Nack`: the operation takes all inputs before it. (2) An operation that ends before the arrival; a reset before
it. -/
theorem witness_ArrivingRequestDoesNotDisturbTheOperation :
    (∀ before ∈ [[], [Input.writeAnswer true], [.writeAnswer true, .readAnswer none],
        [.writeAnswer true, .readAnswer none, .readAnswer none, .readAnswer (some success)],
        [.writeAnswer true, .readAnswer none, .readAnswer none, .readAnswer none], [.writeAnswer false]],
      Input.during .reset ∉ before) ∧
    (∃ t, exec (.cmdLock false 0 false) (start (bytesAt 2 success)) = .next t ∧ t.inputs.length ≤ ([] : List Input).length) ∧
    (∃ t, exec (.crc16 [] 0 0) (start ([.writeAnswer true] ++ [])) = .next t ∧
      ([] : List Input).length < t.inputs.length) ∧
    Input.during .reset ∈ [Input.during .reset] :=
  ⟨by decide, ⟨_, rfl, by decide +kernel⟩, ⟨_, rfl, by decide⟩, by decide⟩
/-- Each place where the arrival of a request can land in a CMD.LOCK: one `Busy`, then the response it ends with anyway. -/
theorem test_arrival_points :
    ∀ inputs ∈ [[Input.during (.request ⟨0x02, []⟩), .writeAnswer true, .readAnswer none, .readAnswer (some success)],
        [.writeAnswer true, .during (.request ⟨0x02, []⟩), .readAnswer none, .readAnswer (some success)],
        [.writeAnswer true, .readAnswer none, .during (.request ⟨0x02, []⟩), .readAnswer (some success)],
        [.writeAnswer true, .readAnswer none, .readAnswer (some success), .during (.request ⟨0x02, []⟩)]],
      (nextState (exec (.cmdLock false 0x1234 false) (start inputs))).map (fun t => (t.delivered, t.inputs)) =
        some ([respBusy, respOk [0x00]], []) := by decide +kernel
/-- The third clause: an idle stage with `BUSY = 1`, which the accept check reads and no run of this model reaches. -/
theorem witness_ArrivingRequest_accept :
    let s := { start [.request ⟨0x02, []⟩] with busy := true }
    s.stage = .idle ∧ s.busy = true ∧ s.inputs = .request ⟨0x02, []⟩ :: [] := by decide
theorem witness_ResetAbandonsTheOperation : (start [.during .reset]).inputs = .during .reset :: [] := rfl
theorem witness_ResetAfterTheWriteLeavesTheFrameSent :
    (∀ i ∈ [Instr.send 0x02 0x00 0x0000 (zeros 77) 38, .cmdLock true 0xffff false, .cmdRead 0x02 8191 7 false],
      (sentBy params i).isSome = true ∧ isRequest i = true ∧ wellFormed params i = true) ∧
    (let f : Frame := ⟨0x00, 0x00, 0x0000, [], 0x0000⟩
     sentBy params (.wireRead f) = some (rawFrame 0x02 f, 38) ∧ isRequest (.wireRead f) = false) ∧
    (∀ k ∈ [0, 3], k ≤ params.pollMax ∧
      (start (.writeAnswer true :: (List.replicate k (.readAnswer none) ++ .during .reset :: []))).inputs =
        .writeAnswer true :: (List.replicate k (.readAnswer none) ++ .during .reset :: [])) ∧
    (∀ k ∈ [0, 2], k < params.pollMax ∧ success.length = 38) ∧
    (start [.writeAnswer false, .during .reset]).inputs = .writeAnswer false :: .during .reset :: [] := by decide +kernel
theorem witness_ResetTouchesNoParameterAndNoChip :
    (start [.reset]).stage = .idle ∧ (start [.reset]).inputs = .reset :: [] := by decide
theorem witness_OpeningASessionSetsPollMax :
    (start [.openSession 1]).stage = .idle ∧ (start [.openSession 1]).inputs = .openSession 1 :: [] ∧ 1 ≤ 1 ∧
    (start [.openSession 0]).inputs = .openSession 0 :: [] := by decide
theorem witness_StepRunsTheDecodedInstruction :
    (let s := start [.request ⟨0x30, [.bytes []]⟩]
     s.stage = .idle ∧ s.busy = false ∧ s.inputs = .request ⟨0x30, [.bytes []]⟩ :: [] ∧
       decodeRequest ⟨0x30, [.bytes []]⟩ = .ok (.sha256 [])) ∧
    (let s := (start []).withFetchWord 24 0x020003
     s.stage = .framed ∧ s.codec.dataLen ≠ none ∧
       decodeFrame s.params s.codec.tx = .ok (.wireRead ⟨0x00, 0x00, 0x0000, [], 0x0000⟩)) ∧
    (let s := (start []).withFetchWord 8 0x04
     s.stage = .received ∧ decodeResponse s.codec.rx = .ok (.response 0x04 (zeros 37))) := by decide
theorem witness_EveryInstructionEndsInOneOutcome :
    (∃ t, exec (.xor32 plain sk3) (start []) = .next t) ∧
    ∃ t, exec (.xor32 plain sk3) (start [.during .reset]) = .next t := ⟨⟨_, rfl⟩, ⟨_, rfl⟩⟩
theorem witness_BadOperandExactlyWhenIllFormed :
    isRequest (.xor32 plain sk3) = true ∧ quiet (start []).inputs = true ∧ wellFormed params (.xor32 plain sk3) = true ∧
    wellFormed params (.xor32 plain []) = false ∧ isRequest (.parse []) = true ∧ wellFormed params (.parse []) = false := by
  decide
/-- The second clause: too few operands, one of a wrong kind, and a `target_slot` that is no u16 (R61). -/
theorem witness_BadOperand_illTyped :
    (∀ r ∈ [(⟨0x34, [.bytes plain]⟩ : Request), ⟨0x30, [.nat 0]⟩, ⟨0x31, [.bytes root, .nat 258, .bytes serial]⟩],
      r.opsel.toNat ∈ assignedOpsels ∧
        (match decodeRequest r with
          | .ok _ => false
          | .error _ => true) = true) ∧
    (start [.request ⟨0x34, []⟩]).stage = .idle ∧ (start [.request ⟨0x34, []⟩]).busy = false ∧
    quiet ([] : List Input) = true := by decide
theorem witness_PureOperationsTouchNothingShared :
    isPure (.crc16 [] 0 0) = true ∧ isPure (.validate serial rnd input20 root 0 0x00) = true ∧
    ∃ t, exec (.crc16 [] 0 0) (start []) = .next t := ⟨rfl, rfl, _, rfl⟩
theorem witness_UnitsNotUsedAreUnchanged :
    Input.during .reset ∉ (start []).inputs ∧ isCommand (.cmdMac 0 [] 0x01) = true ∧
    isRequest (.response 0x04 []) = false ∧ isPure (.sha256 []) = true ∧
    ∃ t, exec (.sha256 []) (start []) = .next t := ⟨by decide, rfl, rfl, rfl, _, rfl⟩
theorem witness_StepOnlyAddsToWhatLeftTheEngine :
    (∃ t, step (start [.reset]) = .next t) ∧ ∀ n, (start [.reset]).inputs.head? ≠ some (.openSession n) :=
  ⟨⟨_, rfl⟩, fun _ => by simp [start]⟩
/-- A state with the invariant in which a command is in flight, and a step from it. -/
theorem witness_EveryStepKeepsTheInvariant :
    Invariant { (start []).withFetchWord 24 0x020003 with wire := [.read 1 none], delivered := [respBusy] } ∧
    ∃ t, step { (start []).withFetchWord 24 0x020003 with wire := [.read 1 none], delivered := [respBusy] } = .next t :=
  ⟨⟨by decide, by decide, by decide, by decide, by decide, by decide, by decide, by decide, by decide⟩, _, rfl⟩
theorem witness_WorkingRegistersAreUnobservable :
    (start []).stage = .idle ∧
    observe (start []) = observe { start [] with codec := { resetCodec with tx := [0x03] } } := by decide

end Sys2Proof.Tests
end

section
/-! SUPPORT. What an instruction does before its response or its first transport access, said once per family: the
commands, the operations of the hash unit, CRC16, FRAME and PARSE, and the rows that are no requests. The functions named
depend on the parameters only, so the lemmas speak of every state at once. -/

namespace Sys2Proof.Machine

open Sys2Proof.Spec

/-- What a SEND or `CMD.*` is under the parameters `p`: a refusal, or the transmission of a frame that fits. -/
inductive CommandMeaning (p : Params) : (State → State) → Prop
  | refuses : CommandMeaning p (deliver respBadOperand)
  | sends (c p1 : Byte) (p2 : Half) (pl : Bytes) (n : Nat) (d : Option Nat) (fits : frameFits p pl = true) :
      CommandMeaning p fun s => transmit (stageFrame c p1 p2 pl n d s)

/-- A SEND behind a check of its operands is a command. -/
theorem CommandMeaning.of_check (p : Params) (ok : Bool) (c p1 : Byte) (p2 : Half) (pl : Bytes) (n : Nat)
    (d : Option Nat) :
    ∃ F, CommandMeaning p F ∧
      ∀ s, s.params = p → (if ok then sendFrame c p1 p2 pl n d s else deliver respBadOperand s) = F s := by
  by_cases hsend : ok = true ∧ respLenOk n = true ∧ frameFits p pl = true
  · obtain ⟨rfl, hn, hf⟩ := hsend
    exact ⟨_, .sends c p1 p2 pl n d hf, by rintro s rfl; simp [sendFrame, hn, hf]⟩
  · refine ⟨_, .refuses, ?_⟩
    rintro s rfl
    cases ok
    · rfl
    · simp_all [sendFrame]

/-- Every SEND and `CMD.*` has one meaning for all states with the same parameters. -/
theorem exec_command (p : Params) {i : Instr} (hi : isCommand i = true) :
    ∃ F, CommandMeaning p F ∧ ∀ s, s.params = p → exec i s = .next (F s) := by
  cases i with
  | send c p1 p2 pl n =>
    obtain ⟨F, hF, h⟩ := CommandMeaning.of_check p true c p1 p2 pl n none
    exact ⟨F, hF, fun s hs => congrArg _ (h s hs)⟩
  | cmdRead zone b o fb =>
    cases hz : zoneOfCode p zone with
    | none => exact ⟨_, .refuses, by rintro s rfl; simp [exec, execCmdRead, hz]⟩
    | some z =>
      obtain ⟨F, hF, h⟩ := CommandMeaning.of_check p (locationFits b o) p.opcRead (readParam1 p z fb)
        (locationParam b o) [] respReadLen (some (readLen fb))
      exact ⟨F, hF, by rintro s rfl; rw [← h s rfl]; simp [exec, execCmdRead, hz, sendCommand]⟩
  | cmdWrite zone b o data mac enc =>
    cases hz : zoneOfCode p zone with
    | none => exact ⟨_, .refuses, by rintro s rfl; simp [exec, execCmdWrite, hz]⟩
    | some z =>
      obtain ⟨F, hF, h⟩ := CommandMeaning.of_check p (writeDataOk data && writeMacOk mac && locationFits b o) p.opcWrite
        (writeParam1 p z data enc) (locationParam b o) (writePayload data mac) respReadLen (some 1)
      exact ⟨F, hF, by rintro s rfl; rw [← h s rfl]; simp [exec, execCmdWrite, hz, sendCommand]⟩
  | cmdNonce mode input =>
    obtain ⟨F, hF, h⟩ := CommandMeaning.of_check p (decide (input.length ≤ nonceInputMax mode)) p.opcNonce mode 0x0000
      input respReadLen (some (nonceLen mode))
    exact ⟨F, hF, by rintro s rfl; rw [← h s rfl]; simp [exec, execCmdNonce, sendCommand]⟩
  | cmdGendig zone slot extra =>
    cases hz : zoneOfCode p zone with
    | none => exact ⟨_, .refuses, by rintro s rfl; simp [exec, execCmdGendig, hz]⟩
    | some z =>
      obtain ⟨F, hF, h⟩ := CommandMeaning.of_check p (slotOk slot) p.opcGendig (zoneCode p z) (slotParam slot) extra
        respReadLen (some 1)
      exact ⟨F, hF, by rintro s rfl; rw [← h s rfl]; simp [exec, execCmdGendig, hz, sendCommand]⟩
  | cmdMac slot challenge flags =>
    obtain ⟨F, hF, h⟩ := CommandMeaning.of_check p (slotOk slot && macChallengeOk challenge) p.opcMac flags
      (slotParam slot) challenge respReadLen (some 32)
    exact ⟨F, hF, by rintro s rfl; exact congrArg _ (h s rfl)⟩
  | cmdCheckmac slot challenge response od flags =>
    obtain ⟨F, hF, h⟩ := CommandMeaning.of_check p
      (slotOk slot && lenOk challenge 32 && lenOk response 32 && lenOk od otherDataLen) p.opcCheckmac flags
      (slotParam slot) (challenge ++ response ++ od) respReadLen (some 1)
    exact ⟨F, hF, by rintro s rfl; exact congrArg _ (h s rfl)⟩
  | cmdLock isData checksum skip =>
    obtain ⟨F, hF, h⟩ := CommandMeaning.of_check p true p.opcLock (lockParam1 p isData skip) checksum [] respReadLen
      (some 1)
    exact ⟨F, hF, by rintro s rfl; exact congrArg _ (h s rfl)⟩
  | _ => simp [isCommand] at hi

/-- What an operation of the hash unit is under the parameters `p`: its response, and the hash unit it leaves. -/
inductive HashMeaning (p : Params) : Response → (HashUnit → HashUnit) → Prop
  /-- refused with `BadOperand`, before any hash -/
  | refuses : HashMeaning p respBadOperand id
  /-- an answer that needs no hash (XOR32, NONCEMIX in pass-through) -/
  | keeps (b : Bytes) : HashMeaning p (respOk b) id
  /-- the bare SHA256, which leaves `MSG` alone -/
  | operand (m : Bytes) : HashMeaning p (respOk (sha256 m)) fun u => hashAfter u.msg m
  /-- a chain operation: its last message stands in `MSG` -/
  | chain (m : Bytes) (fits : paramsLegal p = true → m.length ≤ 96) :
      HashMeaning p (respOk (sha256 m)) fun _ => hashAfter m m

/-- An operation of the hash unit: pure, and none of CRC16, FRAME and PARSE. -/
def isHashing : Instr → Bool
  | .crc16 _ _ _ => false
  | .frame _ _ _ _ => false
  | .parse _ => false
  | i => isPure i

/-- A chain operation is an operation of the hash unit, where its message fits `MSG`. -/
theorem HashMeaning.of_chainOperation (p : Params) (ok : Bool) (m : Bytes)
    (fits : ok = true → paramsLegal p = true → m.length ≤ 96) :
    ∃ r g, HashMeaning p r g ∧ ∀ s : State, chainOperation ok m s = deliver r { s with hashUnit := g s.hashUnit } := by
  cases ok with
  | false => exact ⟨_, _, .refuses, fun _ => rfl⟩
  | true => exact ⟨_, _, .chain m (fits rfl), fun _ => rfl⟩

theorem serialTail_length (serial : Bytes) : (serialTail serial).length = 3 := rfl

theorem macrespMsg_length {p : Params} (hp : paramsLegal p = true) {key challenge : Bytes} (od : Bytes)
    (hk : key.length = 32) (hc : challenge.length = 32) : (macrespMsg p.odLayout key challenge od).length ≤ 96 := by
  have hlayout : p.odLayout.length ≤ 32 := by
    simp only [paramsLegal, Bool.and_eq_true, decide_eq_true_eq] at hp
    exact hp.2
  simp [macrespMsg, interleave]
  omega

/-- The chip nonce of operands that VALIDATE accepts is 32 bytes long. -/
theorem chipNonceOf_length {serial random input root : Bytes} {slot : Nat} {mode : Byte}
    (h : validateOk serial random input root slot mode = true) : (chipNonceOf random input mode).length = 32 := by
  obtain ⟨-, -, -, -, hin⟩ := validateOk_iff.mp h
  by_cases hm : mode = noncePassthrough
  · rw [chipNonceOf, if_pos hm]
    exact (if_pos hm).mp hin
  · rw [chipNonceOf, if_neg hm]
    exact sha256_length _

/-- Every operation of the hash unit has one meaning for all states with the same parameters. -/
theorem exec_hashing (p : Params) {i : Instr} (hi : isHashing i = true) :
    ∃ r g, HashMeaning p r g ∧
      ∀ s, s.params = p → exec i s = .next (deliver r { s with hashUnit := g s.hashUnit }) := by
  cases i with
  | sha256 m =>
    cases hm : msgOk m with
    | false => exact ⟨_, _, .refuses, fun s _ => by simp [exec, execSha256, hm]⟩
    | true => exact ⟨_, _, .operand m, fun s _ => by simp [exec, execSha256, hm, runHashOperand]⟩
  | derivekey root target serial =>
    obtain ⟨r, g, hg, h⟩ := HashMeaning.of_chainOperation p
      (lenOk root keyLen && decide (target < 2 ^ 16) && lenOk serial serialLen) (derivekeyMsg root target serial)
      fun ok _ => by
        simp only [Bool.and_eq_true, lenOk_iff, keyLen, serialLen] at ok
        simp [derivekeyMsg, ok]
    exact ⟨r, g, hg, fun s _ => congrArg _ (h s)⟩
  | noncemix seed input mode =>
    by_cases hok : noncemixOk seed input mode = true
    · by_cases hm : mode = noncePassthrough
      · exact ⟨_, _, .keeps input, fun s _ => congrArg _ ((if_pos hok).trans (if_pos hm))⟩
      · refine ⟨_, _, .chain (noncemixMsg seed input mode) fun _ => ?_, fun s _ => ?_⟩
        · obtain ⟨hs, hin⟩ := noncemixOk_iff.mp hok
          have hshort : input.length ≤ 20 := hin.trans_eq (if_neg hm)
          simp [noncemixMsg, hs]
          omega
        · exact congrArg _ ((if_pos hok).trans (if_neg hm))
    · exact ⟨_, _, .refuses, fun s _ => by simp [exec, execNoncemix, hok]⟩
  | sesskey key slot serial nonce =>
    obtain ⟨r, g, hg, h⟩ := HashMeaning.of_chainOperation p
      (lenOk key keyLen && slotOk slot && lenOk serial serialLen && lenOk nonce keyLen)
      (sesskeyMsg key slot serial nonce) fun ok _ => by
        simp only [Bool.and_eq_true, lenOk_iff, keyLen, serialLen] at ok
        simp [sesskeyMsg, serialTail_length, ok]
    exact ⟨r, g, hg, fun s _ => congrArg _ (h s)⟩
  | xor32 a b =>
    by_cases hok : (lenOk a 32 && lenOk b 32) = true
    · exact ⟨_, _, .keeps (xorBytes a b), fun s _ => congrArg _ (if_pos hok)⟩
    · exact ⟨_, _, .refuses, fun s _ => congrArg _ (if_neg hok)⟩
  | wrmac key slot serial plaintext =>
    obtain ⟨r, g, hg, h⟩ := HashMeaning.of_chainOperation p
      (lenOk key keyLen && slotOk slot && lenOk serial serialLen && lenOk plaintext keyLen)
      (wrmacMsg key slot serial plaintext) fun ok _ => by
        simp only [Bool.and_eq_true, lenOk_iff, keyLen, serialLen] at ok
        simp [wrmacMsg, serialTail_length, ok]
    exact ⟨r, g, hg, fun s _ => congrArg _ (h s)⟩
  | macresp key challenge od =>
    obtain ⟨r, g, hg, h⟩ := HashMeaning.of_chainOperation p
      (lenOk key keyLen && lenOk challenge keyLen && lenOk od otherDataLen)
      (macrespMsg p.odLayout key challenge od) fun ok hp => by
        simp only [Bool.and_eq_true, lenOk_iff, keyLen] at ok
        exact macrespMsg_length hp od ok.1.1 ok.1.2
    exact ⟨r, g, hg, by rintro s rfl; exact congrArg _ (h s)⟩
  | validate serial random input root slot mode =>
    by_cases hok : validateOk serial random input root slot mode = true
    · refine ⟨_, _, .chain (macrespMsg p.odLayout (sha256 (derivekeyMsg root slot serial))
        (chipNonceOf random input mode) (validatorOd slot))
        fun hp => macrespMsg_length hp _ (sha256_length _) (chipNonceOf_length hok), ?_⟩
      rintro s rfl
      simp only [exec, execValidate, if_pos hok, answerHash, runNonceMix]
      split <;> rfl
    · exact ⟨_, _, .refuses, fun s _ => by simp [exec, execValidate, hok]⟩
  | _ => simp [isHashing, isPure, isRequest, isCommand] at hi

/-- The requests by family. -/
theorem request_cases {i : Instr} (hi : isRequest i = true) :
    isCommand i = true ∨ isHashing i = true ∨ (∃ b o l, i = .crc16 b o l) ∨
      (∃ c p1 p2 pl, i = .frame c p1 p2 pl) ∨ ∃ rx, i = .parse rx := by
  cases i <;> simp_all [isRequest, isCommand, isHashing, isPure]

/-- What the rows that are no requests do: a frame is transmitted, a response ends the operation in flight. -/
theorem exec_of_not_isRequest {i : Instr} (hi : isRequest i = false) (s : State) :
    (∃ c f d, exec i s = .next (runWire c f d s)) ∨
      ∃ rx, exec i s = .next (finish { s with codec := { s.codec with rx := rx } }) := by
  cases i with
  | wireRead f => exact .inl ⟨_, f, _, rfl⟩
  | wireWrite f => exact .inl ⟨_, f, _, rfl⟩
  | wireNonce f => exact .inl ⟨_, f, _, rfl⟩
  | wireGendig f => exact .inl ⟨_, f, _, rfl⟩
  | wireMac f => exact .inl ⟨_, f, _, rfl⟩
  | wireCheckmac f => exact .inl ⟨_, f, _, rfl⟩
  | wireLock f => exact .inl ⟨_, f, _, rfl⟩
  | response len rest => exact .inr ⟨len :: rest, rfl⟩
  | _ => simp [isRequest] at hi

/-- A frame told by its opcode runs with that opcode. -/
theorem exec_of_wireOf {s : State} {op : Byte} {f : Frame} {i : Instr} (h : wireOf s.params op f = .ok i) :
    ∃ d, exec i s = .next (runWire op f d s) := by
  unfold wireOf at h
  split_ifs at h <;> cases h <;> subst op <;> exact ⟨_, rfl⟩

/-- The operands of an operation make a request of it. -/
theorem isRequest_of_operandsOf {op : OpName} {operands : List Operand} {i : Instr}
    (h : operandsOf op operands = some i) : isRequest i = true := by
  unfold operandsOf at h
  split at h <;> grind [isRequest]

/-- Only requests are decoded from requests. -/
theorem isRequest_of_decodeRequest {r : Request} {i : Instr} (h : decodeRequest r = .ok i) : isRequest i = true := by
  unfold decodeRequest at h
  split at h
  · cases h
  · split at h
    · cases h
    · next hop =>
      cases h
      exact isRequest_of_operandsOf hop

end Sys2Proof.Machine
end

section
/-! SUPPORT. One inversion of `step`: what the idle engine makes of each input, and how an operation in flight goes on. -/

namespace Sys2Proof.Machine

open Sys2Proof.Spec

/-- The outcome of what a step takes to run. -/
def Fetched.outcome : Fetched → Host.Outcome State Fault Refusal
  | .run i s => exec i s
  | .done s => .next s

theorem step_eq_outcome (s : State) : step s = (fetch s).outcome := by
  unfold step
  cases fetch s <;> rfl

theorem step_idle_nil {s : State} (hs : s.stage = .idle) (hin : s.inputs = []) : step s = .next s := by
  simp [step_eq_outcome, fetch, hs, hin, Fetched.outcome]

theorem step_idle_cons {s : State} {input : Input} {rest : List Input} (hs : s.stage = .idle)
    (hin : s.inputs = input :: rest) : step s = (takeInput input { s with inputs := rest }).outcome := by
  simp [step_eq_outcome, fetch, hs, hin]

/-- A step from a frame in `TX` transmits it, with what a command's frame says of its response. -/
theorem step_framed {s : State} (hs : s.stage = .framed) :
    ∃ n d, step s = .next (transmit { s with codec := { s.codec with respLen := n, dataLen := d } }) := by
  have hbare : ∃ n d, Fetched.outcome (.done (transmit s)) =
      .next (transmit { s with codec := { s.codec with respLen := n, dataLen := d } }) :=
    ⟨s.codec.respLen, s.codec.dataLen, rfl⟩
  have hfetch : fetch s = fetchFrame s := by simp [fetch, hs]
  rw [step_eq_outcome, hfetch, fetchFrame]
  split
  · exact hbare
  · split
    · next i hdec =>
      obtain ⟨f, op, htx, hop⟩ := bytes_of_decodeFrame hdec
      obtain ⟨d, hd⟩ := exec_of_wireOf hop
      refine ⟨respReadLen, some d, hd.trans ?_⟩
      rw [runWire, ← htx, ← hs]
    · exact hbare

/-- A step from a response in `RX` ends the operation. -/
theorem step_received {s : State} (hs : s.stage = .received) : step s = .next (finish s) := by
  have hfetch : fetch s = fetchResponse s := by simp [fetch, hs]
  rw [step_eq_outcome, hfetch, fetchResponse]
  cases hrx : s.codec.rx with
  | nil => rfl
  | cons len rest => simp [decodeResponse, Fetched.outcome, exec, execResponse, ← hrx]

/-- What the request `r` does when it is presented. -/
inductive Presented (r : Request) (s t : State) : Prop
  | refusedBusy (busy : s.busy = true) (eq : t = refuseBusy s)
  | rejected (notBusy : s.busy = false) (e : Reject) (decoded : decodeRequest r = .error e)
      (eq : t = deliver (rejectResponse e) (accept s))
  | ran (notBusy : s.busy = false) (i : Instr) (decoded : decodeRequest r = .ok i) (eq : exec i (accept s) = .next t)

theorem presented_of_presentRequest {r : Request} {s t : State} (h : (presentRequest r s).outcome = .next t) :
    Presented r s t := by
  unfold presentRequest at h
  split at h
  · next busy => cases h; exact .refusedBusy busy rfl
  · next free =>
    have notBusy : s.busy = false := Bool.eq_false_iff.mpr free
    split at h
    · next i decoded => exact .ran notBusy i decoded h
    · next e decoded => cases h; exact .rejected notBusy e decoded rfl

/-- The ways a step goes from `s` to `t`. -/
inductive StepCase (s t : State) : Prop
  /-- nothing to take, or a transport answer nobody asked for -/
  | stays (idle : s.stage = .idle) (rest : List Input) (eq : t = { s with inputs := rest })
  | presents (idle : s.stage = .idle) (r : Request) (rest : List Input)
      (input : s.inputs = .request r :: rest ∨ s.inputs = .during (.request r) :: rest)
      (presented : Presented r { s with inputs := rest } t)
  | resets (idle : s.stage = .idle) (rest : List Input)
      (input : s.inputs = .reset :: rest ∨ s.inputs = .during .reset :: rest)
      (eq : t = engineReset { s with inputs := rest })
  | opens (idle : s.stage = .idle) (n : Nat) (rest : List Input) (input : s.inputs = .openSession n :: rest)
      (eq : t = openSession n { s with inputs := rest })
  | transmits (framed : s.stage = .framed) (n : Nat) (d : Option Nat)
      (eq : t = transmit { s with codec := { s.codec with respLen := n, dataLen := d } })
  | finishes (received : s.stage = .received) (eq : t = finish s)

/-- The inversion of `step`. -/
theorem step_cases {s t : State} (h : step s = .next t) : StepCase s t := by
  cases hs : s.stage with
  | idle =>
    cases hin : s.inputs with
    | nil =>
      rw [step_idle_nil hs hin] at h
      cases h
      exact .stays hs s.inputs rfl
    | cons input rest =>
      rw [step_idle_cons hs hin] at h
      cases input with
      | request r => exact .presents hs r rest (.inl hin) (presented_of_presentRequest h)
      | reset => cases h; exact .resets hs rest (.inl hin) rfl
      | openSession n => cases h; exact .opens hs n rest hin rfl
      | during a =>
        cases a with
        | request r => exact .presents hs r rest (.inr hin) (presented_of_presentRequest h)
        | reset => cases h; exact .resets hs rest (.inr hin) rfl
      | writeAnswer ack => cases h; exact .stays hs rest rfl
      | readAnswer answer => cases h; exact .stays hs rest rfl
  | framed =>
    obtain ⟨n, d, hstep⟩ := step_framed hs
    rw [hstep] at h
    cases h
    exact .transmits hs n d rfl
  | received =>
    rw [step_received hs] at h
    cases h
    exact .finishes hs rfl

end Sys2Proof.Machine
end

section
/-! SUPPORT. Properties followed through an instruction: how it ends, what it adds to the records, the hash unit a SEND
does not use. -/

namespace Sys2Proof.Machine

open Sys2Proof.Spec

theorem responseLegal_rejectResponse (e : Reject) : responseLegal (rejectResponse e) = true := by
  cases e <;> rfl

/-- While an operation of `s` runs, only `Busy` refusals are delivered, and the inputs are taken in order. -/
def OnlyRefused (s u : State) : Prop :=
  (∃ k, u.delivered = s.delivered ++ List.replicate k respBusy) ∧ u.inputs <:+ s.inputs

/-- How an instruction that runs from `s` ends (R24, R170, R171). -/
def EndsOnce (s t : State) : Prop :=
  t.busy = false ∧ t.stage = .idle ∧
    ∃ k, (∃ r, t.delivered = s.delivered ++ List.replicate k respBusy ++ [r] ∧ responseLegal r = true ∧
        r.kind ≠ .busy ∧ r.kind ≠ .badOpsel) ∨
      (.during .reset ∈ s.inputs ∧ t.delivered = s.delivered ++ List.replicate k respBusy)

theorem OnlyRefused.refuseArrivals {s u : State} (h : OnlyRefused s u) : OnlyRefused s (refuseArrivals u) := by
  obtain ⟨⟨k, hk⟩, hin⟩ := h
  exact ⟨⟨k + busyCount u.inputs, by simp [hk]⟩, (afterDuring_suffix _).trans hin⟩

theorem OnlyRefused.follows (s : State) : Follows (OnlyRefused s) (EndsOnce s) where
  refuse _ h := h.refuseArrivals
  write u h := ⟨h.1, (dropWriteAnswer_suffix u.inputs).trans h.2⟩
  read u h := ⟨h.1, (dropReadAnswer_suffix u.inputs).trans h.2⟩
  receive _ _ h _ := h
  crc u h := by simpa [OnlyRefused] using h
  reset u h hr :=
    have ⟨k, hk⟩ := h.refuseArrivals.1
    ⟨rfl, rfl, k, .inr ⟨h.2.subset (mem_of_resetDuring hr), hk⟩⟩
  answer u r h legal notBusy notBadOpsel :=
    have ⟨k, hk⟩ := h.1
    ⟨rfl, rfl, k, .inl ⟨r, by simp [hk], legal, notBusy, notBadOpsel⟩⟩

/-- Every instruction ends in one outcome. -/
theorem exec_endsOnce {i : Instr} {s t : State} (h : exec i s = .next t) : EndsOnce s t :=
  exec_follows (OnlyRefused.follows s) h fun _ same => ⟨⟨0, by simp [same.delivered]⟩, same.inputs ▸ List.suffix_rfl⟩

/-- `u` has the parameters of `s`, and what left the engine by `s` stands first in its records. -/
structure Extends (s u : State) : Prop where
  params : u.params = s.params
  delivered : s.delivered <+: u.delivered
  wire : s.wire <+: u.wire

theorem Extends.answered {s u : State} (h : Extends s u) (r : Response) : Extends s (answered r u) :=
  { h with delivered := h.delivered.trans (List.prefix_append _ _) }

theorem Extends.follows (s : State) : Follows (Extends s) (Extends s) where
  refuse _ h := { h with delivered := h.delivered.trans (List.prefix_append _ _) }
  write _ h := { h with wire := h.wire.trans (List.prefix_append _ _) }
  read _ h := { h with wire := h.wire.trans (List.prefix_append _ _) }
  receive _ _ h _ := ⟨h.params, h.delivered, h.wire⟩
  crc _ h := ⟨by simpa using h.params, by simpa using h.delivered, by simpa using h.wire⟩
  reset _ h _ := { h with delivered := h.delivered.trans (List.prefix_append _ _) }
  answer _ r h _ _ _ := h.answered r

theorem exec_extends {i : Instr} {s t : State} (h : exec i s = .next t) : Extends s t :=
  exec_follows (Extends.follows s) h fun _ same =>
    ⟨same.params, same.delivered ▸ List.prefix_rfl, same.wire ▸ List.prefix_rfl⟩

theorem Presented.extends {r : Request} {s t : State} (h : Presented r s t) : Extends s t := by
  cases h with
  | refusedBusy _ eq => subst eq; exact ⟨rfl, List.prefix_append _ _, List.prefix_rfl⟩
  | rejected _ e _ eq =>
    subst eq
    exact (Extends.follows s).onArrivals (s := accept s) ⟨rfl, List.prefix_rfl, List.prefix_rfl⟩ fun _ h => h.answered _
  | ran _ i _ eq =>
    obtain ⟨hp, hd, hw⟩ := exec_extends eq
    exact ⟨hp, hd, hw⟩

/-- With no reset among the inputs, an operation ends in its response. -/
theorem deliver_of_no_reset {s : State} (r : Response) (h : .during .reset ∉ s.inputs) :
    deliver r s = answered r (refuseArrivals s) := by
  obtain ⟨-, heq⟩ | ⟨hr, -⟩ := deliver_cases r s
  · exact heq
  · exact absurd (mem_of_resetDuring hr) h

/-- Delivering a response writes no working register, where no reset arrives. -/
theorem deliver_keeps_units {s : State} (r : Response) (h : .during .reset ∉ s.inputs) :
    (deliver r s).crcUnit = s.crcUnit ∧ (deliver r s).hashUnit = s.hashUnit ∧ (deliver r s).codec = s.codec := by
  rw [deliver_of_no_reset r h]
  exact ⟨rfl, rfl, rfl⟩

/-- No reset is among the inputs, and the hash unit is `u`. -/
def HashUnitKept (u : HashUnit) (s : State) : Prop := .during .reset ∉ s.inputs ∧ s.hashUnit = u

theorem HashUnitKept.follows (u : HashUnit) : Follows (HashUnitKept u) fun t => t.hashUnit = u where
  refuse s h := ⟨fun hm => h.1 ((afterDuring_suffix s.inputs).subset hm), h.2⟩
  write s h := ⟨fun hm => h.1 ((dropWriteAnswer_suffix s.inputs).subset hm), h.2⟩
  read s h := ⟨fun hm => h.1 ((dropReadAnswer_suffix s.inputs).subset hm), h.2⟩
  receive _ _ h _ := h
  crc _ h := by simpa [HashUnitKept] using h
  reset _ h hr := absurd (mem_of_resetDuring hr) h.1
  answer _ _ h _ _ _ := h.2

/-- A command, a frame on the transport and a response leave the hash unit, where no reset arrives. -/
theorem exec_hashUnit_of_uses_codec {i : Instr} {s t : State} (hi : isCommand i = true ∨ isRequest i = false)
    (hin : .during .reset ∉ s.inputs) (h : exec i s = .next t) : t.hashUnit = s.hashUnit := by
  have hkept : HashUnitKept s.hashUnit s := ⟨hin, rfl⟩
  have follows := HashUnitKept.follows s.hashUnit
  obtain hc | hw := hi
  · obtain ⟨F, hF, hexec⟩ := exec_command s.params hc
    rw [hexec s rfl] at h
    cases h
    cases hF with
    | refuses => exact (deliver_keeps_units _ hin).2.1
    | sends c p1 p2 pl n d _ => exact follows.transmit hkept
  · obtain ⟨c, f, d, hexec⟩ | ⟨rx, hexec⟩ := exec_of_not_isRequest hw s
    · rw [hexec] at h
      cases h
      exact follows.transmit hkept
    · rw [hexec] at h
      cases h
      exact follows.finish hkept

end Sys2Proof.Machine
end

section
/-! SUPPORT. The invariant through an operation. While an operation runs, `BUSY` and the bound on `ATTEMPT` are followed
apart from the rest: the rest is kept by every primitive, the bound only by the poll loop as a whole. -/

namespace Sys2Proof.Machine

open Sys2Proof.Spec

/-- The registers of the hash unit have their sizes (R27). -/
structure HashSized (u : HashUnit) : Prop where
  msg : u.msg.length ≤ 96
  w : u.w.length = 64
  digest : u.digest.length = 32

/-- What the invariant says of a state with legal parameters `p`, but for `BUSY` and `ATTEMPT`. -/
structure Sound (p : Params) (s : State) : Prop where
  legal : paramsLegal p = true
  params : s.params = p
  tx : s.codec.tx.length ≤ p.frameMax
  hash : HashSized s.hashUnit
  delivered : ∀ r ∈ s.delivered, responseLegal r = true
  wire : ∀ e ∈ s.wire, eventLegal p e = true

/-! ## The hash unit -/

theorem wordsBE_length (n : Nat) (bs : Bytes) (h : bs.length = 4 * n) : (wordsBE bs).length = n := by
  induction n generalizing bs with
  | zero => simp [List.length_eq_zero_iff.mp h, wordsBE]
  | succ n ih =>
    match bs, h with
    | a :: b :: c :: d :: rest, h => simp [wordsBE, ih rest (by simp at h; omega)]

theorem scheduleMore_length (n : Nat) (ws : List Word) : (scheduleMore n ws).length = ws.length + n := by
  induction n generalizing ws with
  | zero => rfl
  | succ n ih => simp [scheduleMore, ih]; omega

theorem schedule_length {block : Bytes} (h : block.length = 64) : (schedule block).length = 64 := by
  simp [schedule, scheduleMore_length, wordsBE_length 16 block h]

theorem blockCount_spec (l : Nat) : 1 ≤ blockCount l ∧ 64 * blockCount l = l + 9 + padZeros l := by
  unfold blockCount padZeros
  omega

/-- Every block of a padded message is whole. -/
theorem blockAt_pad_length (m : Bytes) {j : Nat} (hj : j < blockCount m.length) : (blockAt (pad m) j).length = 64 := by
  have hpad : (pad m).length = 64 * blockCount m.length := by
    rw [(blockCount_spec m.length).2]
    simp [pad]
    omega
  rw [blockAt, slice_length _ _ _ (by omega)]
  omega

theorem HashSized.hashAfter {msg : Bytes} (h : msg.length ≤ 96) (m : Bytes) : HashSized (hashAfter msg m) where
  msg := h
  w := schedule_length (blockAt_pad_length m (Nat.sub_lt (blockCount_spec m.length).1 Nat.one_pos))
  digest := sha256_length m

theorem HashSized.reset : HashSized resetHashUnit := ⟨Nat.zero_le _, rfl, rfl⟩

theorem HashMeaning.hashSized {p : Params} {r : Response} {g : HashUnit → HashUnit} (h : HashMeaning p r g)
    (legal : paramsLegal p = true) {u : HashUnit} (hu : HashSized u) : HashSized (g u) := by
  cases h with
  | refuses => exact hu
  | keeps => exact hu
  | operand m => exact .hashAfter hu.msg m
  | chain m fits => exact .hashAfter (fits legal) m

theorem HashMeaning.responseLegal {p : Params} {r : Response} {g : HashUnit → HashUnit} (h : HashMeaning p r g) :
    responseLegal r = true := by
  cases h <;> rfl

/-! ## The primitives -/

section

variable {p : Params} {s : State}

theorem Invariant.sound (h : Invariant s) : Sound s.params s :=
  ⟨h.params, rfl, h.tx, ⟨h.msg, h.w, h.digest⟩, h.delivered, h.wire⟩

/-- An idle engine has the invariant when the two parts agree. -/
theorem Sound.invariant (h : Sound p s) (busy : s.busy = false) (stage : s.stage = .idle)
    (attempt : s.codec.attempt ≤ p.pollMax) : Invariant s := by
  obtain ⟨legal, rfl, tx, ⟨msg, w, digest⟩, delivered, wire⟩ := h
  exact ⟨legal, by simp [busy, stage], attempt, tx, msg, w, digest, delivered, wire⟩

theorem Sound.deliverMore (h : Sound p s) {rs : List Response} (hrs : ∀ r ∈ rs, responseLegal r = true) :
    Sound p { s with delivered := s.delivered ++ rs } :=
  { h with delivered := List.forall_mem_append.mpr ⟨h.delivered, hrs⟩ }

theorem Sound.wireMore (h : Sound p s) {e : TxEvent} (he : eventLegal p e = true) :
    Sound p { s with wire := s.wire ++ [e] } :=
  { h with wire := List.forall_mem_append.mpr ⟨h.wire, List.forall_mem_singleton.mpr he⟩ }

theorem Sound.refuseArrivals (h : Sound p s) : Sound p (refuseArrivals s) :=
  { h.deliverMore fun r hr => (List.eq_of_mem_replicate hr ▸ rfl : responseLegal r = true) with }

theorem Sound.answered (h : Sound p s) {r : Response} (hr : responseLegal r = true) : Sound p (answered r s) :=
  { h.deliverMore (List.forall_mem_singleton.mpr hr) with }

theorem Sound.engineReset (h : Sound p s) : Sound p (engineReset s) :=
  { h with tx := Nat.zero_le _, hash := .reset }

theorem Sound.txWrite (h : Sound p s) : Sound p (txWrite s) :=
  { h.wireMore (e := .write s.codec.tx (writeAnswerOf s)) (decide_eq_true h.tx) with }

theorem Sound.txRead (h : Sound p s) : Sound p (txRead s) :=
  { h.wireMore (e := .read s.codec.respLen (readAnswerOf s.codec.respLen s))
      (decide_eq_true fun _ hbs => readAnswerOf_length hbs) with }

theorem Sound.parseCrc (h : Sound p s) (rx : Bytes) : Sound p (parseCrc rx s) := by
  obtain ⟨c, hc⟩ := parseCrc_eq rx s
  rw [hc]
  exact { h with }

theorem Sound.follows (p : Params) : Follows (Sound p) fun t => Sound p t ∧ t.busy = false ∧ t.stage = .idle where
  refuse _ h := h.refuseArrivals
  write _ h := h.txWrite
  read _ h := h.txRead
  receive _ _ h _ := { h with }
  crc _ h := h.parseCrc _
  reset _ h _ := ⟨h.refuseArrivals.engineReset, rfl, rfl⟩
  answer _ _ h legal _ _ := ⟨h.answered legal, rfl, rfl⟩

/-! ## The bound on `ATTEMPT` -/

theorem onArrivals_attempt_le {s : State} {f : State → State} {n : Nat}
    (hf : (f (Machine.refuseArrivals s)).codec.attempt ≤ n) : (onArrivals s f).codec.attempt ≤ n := by
  unfold onArrivals
  split
  · exact Nat.zero_le n
  · exact hf

theorem deliver_attempt_le (r : Response) (s : State) : (deliver r s).codec.attempt ≤ s.codec.attempt :=
  onArrivals_attempt_le (Nat.le_refl _)

theorem finish_attempt_le (s : State) : (finish s).codec.attempt ≤ s.codec.attempt :=
  (deliver_attempt_le _ _).trans_eq (by simp)

/-- A loop with `k` attempts left makes at most `k` more. -/
theorem poll_attempt_le (k : Nat) (s : State) : (poll k s).codec.attempt ≤ s.codec.attempt + k := by
  induction k generalizing s with
  | zero => exact deliver_attempt_le _ s
  | succ k ih =>
    refine onArrivals_attempt_le ?_
    split
    · exact (ih _).trans_eq (by simp; omega)
    · exact (finish_attempt_le _).trans (by simp)

/-- SEND makes at most `POLL_MAX` attempts (R28, R104). -/
theorem transmit_attempt_le (s : State) : (transmit s).codec.attempt ≤ s.params.pollMax := by
  refine onArrivals_attempt_le ?_
  split
  · exact (poll_attempt_le _ _).trans_eq (by simp)
  · exact (deliver_attempt_le _ _).trans (Nat.zero_le _)

/-! ## The ends of an operation -/

theorem Sound.invariant_deliver (h : Sound p s) (attempt : s.codec.attempt ≤ p.pollMax) {r : Response}
    (hr : responseLegal r = true) : Invariant (deliver r s) := by
  obtain ⟨hs, busy, stage⟩ := (Sound.follows p).onArrivals (f := Machine.answered r) h
    fun t ht => ⟨ht.answered hr, rfl, rfl⟩
  exact hs.invariant busy stage ((deliver_attempt_le r s).trans attempt)

theorem Sound.invariant_finish (h : Sound p s) (attempt : s.codec.attempt ≤ p.pollMax) : Invariant (finish s) := by
  obtain ⟨hs, busy, stage⟩ := (Sound.follows p).finish h
  exact hs.invariant busy stage ((finish_attempt_le s).trans attempt)

theorem Sound.invariant_transmit (h : Sound p s) : Invariant (transmit s) := by
  obtain ⟨hs, busy, stage⟩ := (Sound.follows p).transmit (s := s) { h with }
  exact hs.invariant busy stage (h.params ▸ transmit_attempt_le s)

theorem Sound.stageFrame (h : Sound p s) (c p1 : Byte) (p2 : Half) {pl : Bytes} (n : Nat) (d : Option Nat)
    (fits : frameFits p pl = true) : Sound p (stageFrame c p1 p2 pl n d s) :=
  { h with tx := (frameBytes_length c p1 p2 pl).trans_le (frameFits_iff.mp fits) }

/-- Every request ends with the invariant. -/
theorem Sound.invariant_exec (h : Sound p s) (attempt : s.codec.attempt ≤ p.pollMax) {i : Instr}
    (hi : isRequest i = true) {t : State} (he : exec i s = .next t) : Invariant t := by
  obtain hc | hh | ⟨b, o, l, rfl⟩ | ⟨c, p1, p2, pl, rfl⟩ | ⟨rx, rfl⟩ := request_cases hi
  · obtain ⟨F, hF, hexec⟩ := exec_command p hc
    rw [hexec s h.params] at he
    cases he
    cases hF with
    | refuses => exact h.invariant_deliver attempt rfl
    | sends c p1 p2 pl n d fits => exact (h.stageFrame c p1 p2 n d fits).invariant_transmit
  · obtain ⟨r, g, hg, hexec⟩ := exec_hashing p hh
    rw [hexec s h.params] at he
    cases he
    have hs : Sound p { s with hashUnit := g s.hashUnit } := { h with hash := hg.hashSized h.legal h.hash }
    exact hs.invariant_deliver attempt hg.responseLegal
  · cases he
    have hs : Sound p (runCrc b o l s) := { h with }
    split
    · exact hs.invariant_deliver attempt rfl
    · exact h.invariant_deliver attempt rfl
  · cases he
    split
    · next fits =>
      have hs : Sound p (loadFrame c p1 p2 pl s) :=
        { h with tx := (frameBytes_length c p1 p2 pl).trans_le (frameFits_iff.mp (h.params ▸ fits)) }
      exact hs.invariant_deliver attempt rfl
    · exact h.invariant_deliver attempt rfl
  · cases he
    have hs : Sound p { s with codec := { s.codec with rx := rx } } := { h with }
    exact (hs.parseCrc rx).invariant_deliver (by simpa using attempt) (responseLegal_parseResponse rx)

end

/-! ## The step -/

theorem Invariant.withInputs {s : State} (h : Invariant s) (rest : List Input) : Invariant { s with inputs := rest } :=
  ⟨h.params, h.busy, h.attempt, h.tx, h.msg, h.w, h.digest, h.delivered, h.wire⟩

theorem Invariant.engineReset {s : State} (h : Invariant s) : Invariant (engineReset s) :=
  h.sound.engineReset.invariant rfl rfl (Nat.zero_le _)

theorem Invariant.presented {r : Request} {s t : State} (h : Invariant s) (idle : s.stage = .idle)
    (ht : Presented r s t) : Invariant t := by
  have haccept : Sound s.params (accept s) := { h.sound with }
  cases ht with
  | refusedBusy busy _ => exact absurd idle (h.busy.mp busy)
  | rejected _ e _ eq =>
    subst eq
    exact haccept.invariant_deliver h.attempt (responseLegal_rejectResponse e)
  | ran _ i decoded eq => exact haccept.invariant_exec h.attempt (isRequest_of_decodeRequest decoded) eq

/-- Opening a session keeps the parameters legal, whatever `POLL_MAX` it asks for. -/
theorem Invariant.openSession {s : State} (h : Invariant s) (n : Nat) : Invariant (openSession n s) := by
  unfold Machine.openSession
  split
  · next hn =>
    have legal : paramsLegal { s.params with pollMax := n } = true := by
      have hp := h.params
      simp only [paramsLegal, Bool.and_eq_true, decide_eq_true_eq] at hp ⊢
      obtain ⟨⟨⟨⟨⟨⟨⟨⟨-, hmin⟩, hmax⟩, hopc⟩, hzones⟩, hconfig⟩, hotp⟩, hdata⟩, hlayout⟩ := hp
      exact ⟨⟨⟨⟨⟨⟨⟨⟨hn, hmin⟩, hmax⟩, hopc⟩, hzones⟩, hconfig⟩, hotp⟩, hdata⟩, hlayout⟩
    have hs : Sound { s.params with pollMax := n } { s with params := { s.params with pollMax := n } } :=
      { h.sound with legal := legal, params := rfl }
    exact hs.engineReset.invariant rfl rfl (Nat.zero_le _)
  · exact h

/-- Every step keeps the invariant. -/
theorem Invariant.step {s t : State} (h : Invariant s) (ht : step s = .next t) : Invariant t := by
  cases step_cases ht with
  | stays _ rest eq => exact eq ▸ h.withInputs rest
  | presents idle _ rest _ presented => exact (h.withInputs rest).presented idle presented
  | resets _ rest _ eq => exact eq ▸ (h.withInputs rest).engineReset
  | opens _ n rest _ eq => exact eq ▸ (h.withInputs rest).openSession n
  | transmits _ n d eq =>
    have hs : Sound s.params { s with codec := { s.codec with respLen := n, dataLen := d } } := { h.sound with }
    exact eq ▸ hs.invariant_transmit
  | finishes _ eq => exact eq ▸ h.sound.invariant_finish h.attempt

end Sys2Proof.Machine
end

section
/-! SUPPORT. What a host can observe does not depend on the working registers (R20). A SEND fills the codec before it
uses it, so from its first transport access on only the CRC unit and the hash unit can still differ. -/

namespace Sys2Proof.Machine

open Sys2Proof.Spec

/-- The state with other contents of the CRC unit and the hash unit. -/
def withUnits (c : CrcUnit) (u : HashUnit) (s : State) : State := { s with crcUnit := c, hashUnit := u }

/-- States that a host cannot tell apart have the same parameters, are at the same point and have the same inputs. -/
theorem fields_of_observe_eq {s t : State} (h : observe s = observe t) :
    s.params = t.params ∧ s.busy = t.busy ∧ s.stage = t.stage ∧ s.inputs = t.inputs :=
  ⟨congrArg (·.params) h, congrArg (·.busy) h, congrArg (·.stage) h, congrArg (·.inputs) h⟩

/-- Updates outside the working registers go through `observe`. -/
theorem observe_congr {s t : State} (h : observe s = observe t) (f : State → State)
    (hf : ∀ u, observe (f u) = f (observe u)) : observe (f s) = observe (f t) := by
  rw [hf, hf, h]

@[simp] theorem observe_parseCrc (rx : Bytes) (s : State) : observe (parseCrc rx s) = observe s := by
  obtain ⟨c, hc⟩ := parseCrc_eq rx s
  rw [hc]
  rfl

theorem observe_deliver (r : Response) (s : State) : observe (deliver r s) = deliver r (observe s) := by
  unfold deliver onArrivals
  exact apply_ite observe _ _ _

theorem observe_deliver_congr (r : Response) {s t : State} (h : observe s = observe t) :
    observe (deliver r s) = observe (deliver r t) :=
  observe_congr h (deliver r) (observe_deliver r)

/-! ## From the first transport access on -/

variable (c : CrcUnit) (u : HashUnit)

theorem observe_onArrivals_withUnits (s : State) {f : State → State}
    (hf : ∀ t, observe (f (withUnits c u t)) = observe (f t)) :
    observe (onArrivals (withUnits c u s) f) = observe (onArrivals s f) := by
  unfold onArrivals
  rw [show (withUnits c u s).inputs = s.inputs from rfl]
  split
  · rfl
  · exact hf (refuseArrivals s)

theorem observe_finish_withUnits (s : State) : observe (finish (withUnits c u s)) = observe (finish s) :=
  observe_deliver_congr _ (by simp [withUnits, observe])

theorem observe_poll_withUnits (k : Nat) (s : State) :
    observe (poll k (withUnits c u s)) = observe (poll k s) := by
  induction k generalizing s with
  | zero => exact observe_deliver_congr _ rfl
  | succ k ih =>
    refine observe_onArrivals_withUnits c u s fun t => ?_
    rw [show readAnswerOf (withUnits c u t).codec.respLen (withUnits c u t) = readAnswerOf t.codec.respLen t from rfl]
    split
    · exact ih (txRead t)
    · next rx _ => exact observe_finish_withUnits c u (receive rx (txRead t))

variable {c u}

/-- A SEND sees of a state only what it has after the attempts are cleared, but for the CRC unit and the hash unit. -/
theorem observe_transmit {s t : State} (h : startAttempts s = withUnits c u (startAttempts t)) :
    observe (transmit s) = observe (transmit t) := by
  unfold transmit
  rw [h]
  refine observe_onArrivals_withUnits c u _ fun t => ?_
  rw [show writeAnswerOf (withUnits c u t) = writeAnswerOf t from rfl]
  split
  · exact observe_poll_withUnits c u _ (txWrite t)
  · exact observe_deliver_congr _ rfl

/-- The frame, the lengths, `ATTEMPT` and `RX` are written before the first transport access. -/
theorem observe_transmit_stageFrame (op p1 : Byte) (p2 : Half) (pl : Bytes) (n : Nat) (d : Option Nat) {s t : State}
    (h : observe s = observe t) :
    observe (transmit (stageFrame op p1 p2 pl n d s)) = observe (transmit (stageFrame op p1 p2 pl n d t)) := by
  have hobs : ∀ v, observe (transmit (stageFrame op p1 p2 pl n d v)) =
      observe (transmit (stageFrame op p1 p2 pl n d (observe v))) := fun v => observe_transmit (u := v.hashUnit) rfl
  rw [hobs s, hobs t, h]

/-! ## Requests and steps -/

/-- Two outcomes are idle states that a host cannot tell apart. -/
def SameToHost (a b : Host.Outcome State Fault Refusal) : Prop :=
  ∃ s t, a = .next s ∧ b = .next t ∧ observe s = observe t ∧ s.stage = .idle ∧ t.stage = .idle

theorem SameToHost.next {s t : State} (h : observe s = observe t) (idle : s.stage = .idle) :
    SameToHost (.next s) (.next t) :=
  ⟨s, t, rfl, rfl, h, idle, (fields_of_observe_eq h).2.2.1 ▸ idle⟩

/-- A request answers the same whatever the working registers hold. -/
theorem exec_sameToHost {i : Instr} (hi : isRequest i = true) {s t : State} (h : observe s = observe t) :
    SameToHost (exec i s) (exec i t) := by
  have hparams : t.params = s.params := (fields_of_observe_eq h).1.symm
  have hobserve : ∃ s' t', exec i s = .next s' ∧ exec i t = .next t' ∧ observe s' = observe t' := by
    obtain hc | hh | ⟨b, o, l, rfl⟩ | ⟨op, p1, p2, pl, rfl⟩ | ⟨rx, rfl⟩ := request_cases hi
    · obtain ⟨F, hF, hexec⟩ := exec_command s.params hc
      refine ⟨_, _, hexec s rfl, hexec t hparams, ?_⟩
      cases hF with
      | refuses => exact observe_deliver_congr _ h
      | sends op p1 p2 pl n d _ => exact observe_transmit_stageFrame op p1 p2 pl n d h
    · obtain ⟨r, g, -, hexec⟩ := exec_hashing s.params hh
      exact ⟨_, _, hexec s rfl, hexec t hparams, observe_deliver_congr r h⟩
    · refine ⟨_, _, rfl, rfl, ?_⟩
      split
      · exact observe_deliver_congr _ h
      · exact observe_deliver_congr _ h
    · refine ⟨_, _, rfl, rfl, ?_⟩
      rw [hparams]
      split
      · exact observe_deliver_congr _ h
      · exact observe_deliver_congr _ h
    · refine ⟨_, _, rfl, rfl, observe_deliver_congr _ ?_⟩
      rw [observe_parseCrc, observe_parseCrc]
      exact h
  obtain ⟨s', t', hs, ht, hobs⟩ := hobserve
  rw [hs, ht]
  exact .next hobs (exec_endsOnce hs).2.1

theorem deliver_stage (r : Response) (s : State) : (deliver r s).stage = .idle := by
  obtain ⟨-, heq⟩ | ⟨-, heq⟩ := deliver_cases r s <;> rw [heq] <;> rfl

theorem presentRequest_sameToHost (r : Request) {s t : State} (h : observe s = observe t) (idle : s.stage = .idle) :
    SameToHost (presentRequest r s).outcome (presentRequest r t).outcome := by
  have haccept : observe (accept s) = observe (accept t) := observe_congr h accept fun _ => rfl
  unfold presentRequest
  rw [← (fields_of_observe_eq h).2.1]
  split
  · exact .next (observe_congr h refuseBusy fun _ => rfl) idle
  · split
    · next i hi => exact exec_sameToHost (isRequest_of_decodeRequest hi) haccept
    · exact .next (observe_deliver_congr _ haccept) (deliver_stage _ _)

theorem observe_openSession (n : Nat) (s : State) : observe (openSession n s) = openSession n (observe s) := by
  unfold openSession
  exact apply_ite observe _ _ _

theorem takeInput_sameToHost (input : Input) {s t : State} (h : observe s = observe t) (idle : s.stage = .idle) :
    SameToHost (takeInput input s).outcome (takeInput input t).outcome := by
  have hreset : SameToHost (.next (engineReset s)) (.next (engineReset t)) :=
    .next (observe_congr h engineReset fun _ => rfl) rfl
  cases input with
  | request r => exact presentRequest_sameToHost r h idle
  | reset => exact hreset
  | openSession n =>
    refine .next (observe_congr h (openSession n) (observe_openSession n)) ?_
    unfold openSession
    split
    · rfl
    · exact idle
  | during a =>
    cases a with
    | request r => exact presentRequest_sameToHost r h idle
    | reset => exact hreset
  | writeAnswer ack => exact .next h idle
  | readAnswer answer => exact .next h idle

/-- A step of the idle engine goes the same way whatever the working registers hold. -/
theorem step_sameToHost {s t : State} (idle : s.stage = .idle) (h : observe s = observe t) :
    SameToHost (step s) (step t) := by
  obtain ⟨-, -, hstage, hinputs⟩ := fields_of_observe_eq h
  have idle' : t.stage = .idle := hstage ▸ idle
  cases hin : s.inputs with
  | nil =>
    rw [step_idle_nil idle hin, step_idle_nil idle' (hinputs ▸ hin)]
    exact .next h idle
  | cons input rest =>
    rw [step_idle_cons idle hin, step_idle_cons idle' (hinputs ▸ hin)]
    exact takeInput_sameToHost input (observe_congr h (fun v => { v with inputs := rest }) fun _ => rfl) idle

end Sys2Proof.Machine
end

section
/-! The statements about the state of the engine. -/

namespace Sys2Proof.Proofs

open Sys2Proof.Machine Sys2Proof.Spec

/-- Settles O59: by the ways of a step; each primitive of an operation keeps the invariant but for `BUSY`, which the end
of the operation clears, and the bound on `ATTEMPT`, which the poll loop has as a whole. -/
theorem everyStepKeepsTheInvariant : Obligations.EveryStepKeepsTheInvariant :=
  fun _ _ h ht => h.step ht

/-- Settles O60: the meaning of a request depends on the parameters only, and a SEND fills the codec before its first
transport access. -/
theorem workingRegistersAreUnobservable : Obligations.WorkingRegistersAreUnobservable :=
  fun _ _ idle h => step_sameToHost idle h

/-- Settles O53, following every instruction to its end. -/
theorem everyInstructionEndsInOneOutcome : Obligations.EveryInstructionEndsInOneOutcome :=
  fun _ _ _ h => exec_endsOnce h

/-- Settles O56, by the families of instructions. -/
theorem unitsNotUsedAreUnchanged : Obligations.UnitsNotUsedAreUnchanged := by
  intro i s t hin h
  refine ⟨fun hi => exec_hashUnit_of_uses_codec hi hin h, ?_, ?_, ?_, ?_⟩
  · rintro c p1 p2 pl rfl
    cases h
    split
    · obtain ⟨-, hhash, hcodec⟩ := deliver_keeps_units (s := loadFrame c p1 p2 pl s) _ hin
      exact ⟨hhash, by simp [hcodec]⟩
    · obtain ⟨-, hhash, hcodec⟩ := deliver_keeps_units respBadOperand hin
      exact ⟨hhash, congrArg Codec.rx hcodec⟩
  · rintro rx rfl
    cases h
    obtain ⟨-, hhash, hcodec⟩ := deliver_keeps_units
      (s := parseCrc rx { s with codec := { s.codec with rx := rx } }) (parseResponse rx) (by simpa using hin)
    exact ⟨by simp [hhash], by simp [hcodec]⟩
  · rintro b o l rfl
    cases h
    split
    · exact (deliver_keeps_units (s := runCrc b o l s) _ hin).2
    · exact (deliver_keeps_units respBadOperand hin).2
  · intro hpure hframe hparse hcrc
    have hhash : isHashing i = true := by
      obtain hc | hh | ⟨b, o, l, rfl⟩ | ⟨c, p1, p2, pl, rfl⟩ | ⟨rx, rfl⟩ :=
        request_cases (Bool.and_eq_true_iff.mp hpure).1
      · simp [isPure, hc] at hpure
      · exact hh
      · exact absurd rfl (hcrc b o l)
      · exact absurd rfl (hframe c p1 p2 pl)
      · exact absurd rfl (hparse rx)
    obtain ⟨r, g, -, hexec⟩ := exec_hashing s.params hhash
    rw [hexec s rfl] at h
    cases h
    obtain ⟨hcrcUnit, -, hcodec⟩ := deliver_keeps_units (s := { s with hashUnit := g s.hashUnit }) r hin
    exact ⟨hcrcUnit, hcodec⟩

/-- Settles O57, by the ways of a step. -/
theorem stepOnlyAddsToWhatLeftTheEngine : Obligations.StepOnlyAddsToWhatLeftTheEngine := by
  intro s t h
  cases step_cases h with
  | stays _ rest eq => subst eq; exact ⟨List.prefix_rfl, List.prefix_rfl, fun _ => rfl⟩
  | presents _ _ rest _ presented =>
    obtain ⟨hp, hd, hw⟩ := presented.extends
    exact ⟨hd, hw, fun _ => hp⟩
  | resets _ rest _ eq => subst eq; exact ⟨List.prefix_rfl, List.prefix_rfl, fun _ => rfl⟩
  | opens _ n rest hin eq =>
    have hother : ¬ ∀ m, s.inputs.head? ≠ some (.openSession m) := fun hno => hno n (by rw [hin]; rfl)
    subst eq
    unfold openSession
    split <;> exact ⟨List.prefix_rfl, List.prefix_rfl, fun hno => absurd hno hother⟩
  | transmits _ n d eq =>
    subst eq
    obtain ⟨hp, hd, hw⟩ := (Extends.follows s).transmit
      (s := { s with codec := { s.codec with respLen := n, dataLen := d } }) ⟨rfl, List.prefix_rfl, List.prefix_rfl⟩
    exact ⟨hd, hw, fun _ => hp⟩
  | finishes _ eq =>
    subst eq
    obtain ⟨hp, hd, hw⟩ := (Extends.follows s).finish ⟨rfl, List.prefix_rfl, List.prefix_rfl⟩
    exact ⟨hd, hw, fun _ => hp⟩

/-- Settles O48. -/
theorem resetStateIsIdle : Obligations.ResetStateIsIdle := ⟨rfl, rfl, rfl, rfl, rfl⟩

/-- Settles O49. -/
theorem resetTouchesNoParameterAndNoChip : Obligations.ResetTouchesNoParameterAndNoChip :=
  fun _ _ idle hin => ⟨_, step_idle_cons idle hin, rfl, rfl, rfl, rfl, rfl, rfl⟩

/-- Settles O50. -/
theorem openingASessionSetsPollMax : Obligations.OpeningASessionSetsPollMax := by
  refine fun s rest idle => ⟨fun n hn hin => ?_, fun hin => step_idle_cons idle hin⟩
  refine ⟨_, step_idle_cons idle hin, ?_⟩
  rw [openSession, if_pos hn]
  exact ⟨rfl, rfl, rfl, rfl, rfl, rfl, rfl, rfl, rfl, rfl⟩

/-- Settles O51, at each of the three points where an instruction is taken. -/
theorem stepRunsTheDecodedInstruction : Obligations.StepRunsTheDecodedInstruction := by
  refine fun s i => ⟨fun r rest idle hbusy hin hdec => ?_, fun hstage hlen hdec => ?_, fun hstage hdec => ?_⟩
  · rw [step_idle_cons idle hin]
    simp [takeInput, presentRequest, hbusy, hdec, Fetched.outcome, accept]
  · obtain ⟨n, hn⟩ := Option.ne_none_iff_exists'.mp hlen
    simp [step_eq_outcome, fetch, hstage, fetchFrame, hn, hdec, Fetched.outcome]
  · simp [step_eq_outcome, fetch, hstage, fetchResponse, hdec, Fetched.outcome]

/-- The parameters at reset are legal for every value of the free constants (logs 4, 24, 26). -/
theorem paramsLegal_resetParams : paramsLegal resetParams = true := by
  have hmax : Config.freeFrameMax % 249 + 8 ≤ 256 := by omega
  simp [paramsLegal, resetParams, defaultParams, commandOpcodes, hmax]
  decide

/-- Settles O58. -/
theorem invariantHoldsAfterReset : Obligations.InvariantHoldsAfterReset where
  params := paramsLegal_resetParams
  busy := by simp [State.reset]
  attempt := Nat.zero_le _
  tx := Nat.zero_le _
  msg := Nat.zero_le _
  w := rfl
  digest := rfl
  delivered := List.forall_mem_nil _
  wire := List.forall_mem_nil _

end Sys2Proof.Proofs
end

section
/-! SUPPORT. What an operation adds to the transport stream: a SEND writes its frame at most once, and only its poll
loop reads (R50, R104, R106). -/

namespace Sys2Proof.Machine

/-- The reads of a poll loop with `k` attempts left: `Nack`s, and at most one read that returns bytes, the last. -/
inductive PollReads : Nat → List TxEvent → Prop
  | ends (k : Nat) : PollReads k []
  | nack (n : Nat) {k : Nat} {reads : List TxEvent} (h : PollReads k reads) :
      PollReads (k + 1) (.read n none :: reads)
  | bytes (k n : Nat) (rx : Bytes) : PollReads (k + 1) [.read n (some rx)]

namespace PollReads

variable {k : Nat} {reads : List TxEvent}

theorem length_le (h : PollReads k reads) : reads.length ≤ k := by
  induction h with
  | ends k => exact Nat.zero_le k
  | nack n _ ih => exact Nat.succ_le_succ ih
  | bytes k n rx => exact Nat.succ_le_succ (Nat.zero_le k)

theorem all_read (h : PollReads k reads) : ∀ e ∈ reads, ∃ n a, e = .read n a := by
  induction h with
  | ends k => exact List.forall_mem_nil _
  | nack n _ ih => exact List.forall_mem_cons.mpr ⟨⟨n, none, rfl⟩, ih⟩
  | bytes k n rx => exact List.forall_mem_singleton.mpr ⟨n, some rx, rfl⟩

theorem dropLast_nack (h : PollReads k reads) : ∀ e ∈ reads.dropLast, ∃ n, e = .read n none := by
  induction h with
  | ends k => exact List.forall_mem_nil _
  | @nack n k reads _ ih =>
    cases reads with
    | nil => exact List.forall_mem_nil _
    | cons e es => exact List.forall_mem_cons.mpr ⟨⟨n, rfl⟩, ih⟩
  | bytes k n rx => exact List.forall_mem_nil _

end PollReads

/-- What an operation with `k` attempts adds to the stream `before`: nothing, or one frame and the reads after it, none
where the frame was not acknowledged. -/
inductive WireGrows (k : Nat) (before : List TxEvent) : List TxEvent → Prop
  | silent : WireGrows k before before
  | rejected (frame : Bytes) : WireGrows k before (before ++ [.write frame false])
  | polled (frame : Bytes) {reads : List TxEvent} (h : PollReads k reads) :
      WireGrows k before (before ++ .write frame true :: reads)

@[simp] theorem deliver_wire (r : Response) (s : State) : (deliver r s).wire = s.wire := by
  obtain ⟨-, h⟩ | ⟨-, h⟩ := deliver_cases r s <;> simp [h]

@[simp] theorem finish_wire (s : State) : (finish s).wire = s.wire := by simp [finish]

/-- Where arrivals land, a reset abandons the operation or it goes on. -/
theorem onArrivals_cases (s : State) (f : State → State) :
    onArrivals s f = engineReset (refuseArrivals s) ∨ onArrivals s f = f (refuseArrivals s) :=
  ite_eq_or_eq _ _ _

/-- A poll loop with `k` attempts left makes at most `k` reads and stops at the first that returns bytes (R104,
R105). -/
theorem poll_wire (k : Nat) (s : State) : ∃ reads, PollReads k reads ∧ (poll k s).wire = s.wire ++ reads := by
  induction k generalizing s with
  | zero => exact ⟨[], .ends 0, by simp [poll]⟩
  | succ k ih =>
    rw [poll]
    obtain h | h := onArrivals_cases s _ <;> rw [h]
    · exact ⟨[], .ends _, by simp⟩
    · split
      · next hnack =>
        obtain ⟨reads, hreads, hwire⟩ := ih (txRead (refuseArrivals s))
        exact ⟨_, .nack s.codec.respLen hreads, by simpa [hwire] using hnack⟩
      · next rx hrx => exact ⟨_, .bytes k s.codec.respLen rx, by simpa using hrx⟩

/-- SEND writes its frame at most once, and polls at most `POLL_MAX` times once it is acknowledged (R104, R106). -/
theorem transmit_wireGrows (s : State) : WireGrows s.params.pollMax s.wire (transmit s).wire := by
  rw [transmit]
  obtain h | h := onArrivals_cases (startAttempts s) _ <;> rw [h]
  · exact .silent
  · split
    · next hack =>
      obtain ⟨reads, hreads, hwire⟩ := poll_wire s.params.pollMax (txWrite (refuseArrivals (startAttempts s)))
      simpa [hwire, hack] using WireGrows.polled s.codec.tx hreads
    · next hnack => simpa [hnack] using WireGrows.rejected s.codec.tx

/-- Every instruction adds to the stream what one SEND can add. -/
theorem exec_wireGrows {i : Instr} {s t : State} (h : exec i s = .next t) :
    WireGrows s.params.pollMax s.wire t.wire := by
  obtain ⟨u, hu, hruns⟩ := exec_runs i s
  cases hu.symm.trans h
  cases hruns with
  | ends s' r eq same =>
    rw [eq, deliver_wire, same.wire]
    exact .silent
  | transmits s' eq same =>
    rw [eq, ← same.params, ← same.wire]
    exact transmit_wireGrows s'
  | finishes s' eq same =>
    rw [eq, finish_wire, same.wire]
    exact .silent

end Sys2Proof.Machine
end

section
/-! The statement about the transport stream. -/

namespace Sys2Proof.Proofs

open Sys2Proof.Machine

/-- Settles O16, by what a SEND adds to the transport stream: no other instruction adds anything. -/
theorem oneWriteThenAtMostPollMaxReads : Obligations.OneWriteThenAtMostPollMaxReads := by
  intro i s t h
  have grows := exec_wireGrows h
  generalize t.wire = after at grows ⊢
  cases grows with
  | silent => exact .inl rfl
  | rejected frame =>
    exact .inr ⟨frame, false, [], rfl, fun _ => rfl, Nat.zero_le _, List.forall_mem_nil _, List.forall_mem_nil _⟩
  | polled frame hreads =>
    exact .inr ⟨frame, true, _, rfl, nofun, hreads.length_le, hreads.all_read, hreads.dropLast_nack⟩

end Sys2Proof.Proofs
end

section
/-! SUPPORT. The request decoder and the encoder row by row: the `opsel` of each operation, and the operands of each
(R61, R62). -/

namespace Sys2Proof

/-- The `opsel` of an operation (R61). -/
def opselOf : OpName → Byte
  | .crc16 => 0x01
  | .frame => 0x10
  | .parse => 0x11
  | .send => 0x12
  | .cmdRead => 0x20
  | .cmdWrite => 0x21
  | .cmdNonce => 0x22
  | .cmdGendig => 0x23
  | .cmdMac => 0x24
  | .cmdCheckmac => 0x25
  | .cmdLock => 0x26
  | .sha256 => 0x30
  | .derivekey => 0x31
  | .noncemix => 0x32
  | .sesskey => 0x33
  | .xor32 => 0x34
  | .wrmac => 0x35
  | .macresp => 0x36
  | .validate => 0x37

/-- Each operation is selected by its own `opsel`. -/
theorem opNameOf_opselOf (op : OpName) : opNameOf (opselOf op) = some op := by cases op <;> rfl

/-- No other `opsel` selects it. -/
theorem opselOf_of_opNameOf {opsel : Byte} {op : OpName} (h : opNameOf opsel = some op) : opselOf op = opsel := by
  have hall : ∀ b : Byte, (opNameOf b).all (fun o => opselOf o = b) = true := by decide
  simpa [h] using hall opsel

/-- The `opsel` values that select no operation are those R61 does not list. -/
theorem opNameOf_eq_none {opsel : Byte} (h : opsel.toNat ∉ Spec.assignedOpsels) : opNameOf opsel = none := by
  have hall : ∀ b : Byte, b.toNat ∉ Spec.assignedOpsels → opNameOf b = none := by decide
  exact hall opsel h

theorem decodeRequest_eq_ok_iff {r : Request} {i : Instr} :
    decodeRequest r = .ok i ↔ ∃ op, opNameOf r.opsel = some op ∧ operandsOf op r.operands = some i := by
  unfold decodeRequest
  cases opNameOf r.opsel with
  | none => simp
  | some op =>
    simp only [Option.some.injEq, exists_eq_left']
    cases operandsOf op r.operands <;> simp

/-- A request with the `opsel` of an operation and operands of its kinds decodes to the instruction they make. -/
theorem decodeRequest_opselOf {op : OpName} {operands : List Operand} {i : Instr}
    (h : operandsOf op operands = some i) : decodeRequest ⟨opselOf op, operands⟩ = .ok i :=
  decodeRequest_eq_ok_iff.mpr ⟨op, opNameOf_opselOf op, h⟩

/-- What operands decode to is encoded with the `opsel` of the operation and the same operands. -/
theorem encode_of_operandsOf (p : Params) {op : OpName} {operands : List Operand} {i : Instr}
    (h : operandsOf op operands = some i) : encode p i = .request ⟨opselOf op, operands⟩ := by
  unfold operandsOf at h
  split at h
  case h_14 root t serial =>
    cases h
    simp [encode, opselOf, targetSlotOperand, t.isLt]
  case h_15 root t serial =>
    split at h
    · cases h
    · next hbig =>
      cases h
      simp only [encode, targetSlotOperand, if_neg hbig, opselOf]
  case h_22 => cases h
  all_goals
    cases h
    rfl

/-- A frame that an opcode tells apart is encoded with that opcode. -/
theorem encode_of_wireOf {p : Params} {op : Byte} {f : Frame} {i : Instr} (h : wireOf p op f = .ok i) :
    encode p i = .frame (f.bytes op) := by
  unfold wireOf at h
  split_ifs at h <;> cases h <;> subst op <;> rfl

end Sys2Proof
end

section
/-! The statements about the encoding: the two directions of the round trip. -/

namespace Sys2Proof.Proofs

open Sys2Proof.Machine Sys2Proof.Spec

/-- Settles O41, row by row: a request by its `opsel` and operands, a frame by its opcode, which legal parameters keep
apart, a response by its one row. -/
theorem decodeOfEncodeIsTheInstruction : Obligations.DecodeOfEncodeIsTheInstruction := by
  intro p i hp
  cases i with
  | crc16 | frame | parse | send | cmdRead | cmdNonce | cmdGendig | cmdMac | cmdCheckmac | cmdLock | sha256 | noncemix
  | sesskey | xor32 | wrmac | macresp | validate | response => rfl
  | cmdWrite z b o d mac e => cases mac <;> rfl
  | derivekey r t s => exact decodeRequest_opselOf (op := .derivekey) (operandsOf_derivekey r s t)
  | wireRead f => exact (decodeFrame_bytes p f _).trans (wireOf_read f)
  | wireWrite f => exact (decodeFrame_bytes p f _).trans (wireOf_write hp f)
  | wireNonce f => exact (decodeFrame_bytes p f _).trans (wireOf_nonce hp f)
  | wireGendig f => exact (decodeFrame_bytes p f _).trans (wireOf_gendig hp f)
  | wireMac f => exact (decodeFrame_bytes p f _).trans (wireOf_mac hp f)
  | wireCheckmac f => exact (decodeFrame_bytes p f _).trans (wireOf_checkmac hp f)
  | wireLock f => exact (decodeFrame_bytes p f _).trans (wireOf_lock hp f)

/-- Settles O42, by the format of the code. -/
theorem encodeOfDecodeIsTheCode : Obligations.EncodeOfDecodeIsTheCode := by
  intro p c i h
  cases c with
  | request r =>
    obtain ⟨op, hopsel, hoperands⟩ := decodeRequest_eq_ok_iff.mp h
    rw [encode_of_operandsOf p hoperands, opselOf_of_opNameOf hopsel]
  | frame bs =>
    obtain ⟨f, op, rfl, hop⟩ := bytes_of_decodeFrame h
    exact encode_of_wireOf hop
  | response bs =>
    cases bs with
    | nil => cases h
    | cons len rest => cases h; rfl

/-- Settles O43. -/
theorem writtenOutCodesDecode : Obligations.WrittenOutCodesDecode := ⟨rfl, rfl, rfl, rfl, rfl⟩

/-- Settles O44: the accept check passes, the decoder refuses, and the refusal is delivered at once. -/
theorem unassignedOpselIsRefusedWithBadOpsel : Obligations.UnassignedOpselIsRefusedWithBadOpsel := by
  intro s r rest idle hbusy hin hquiet hopsel
  have hdecode : decodeRequest r = .error (.badOpsel r.opsel) := by simp [decodeRequest, opNameOf_eq_none hopsel]
  have hfetch : takeInput (.request r) { s with inputs := rest } =
      .done (deliver respBadOpsel (accept { s with inputs := rest })) := by
    simp [takeInput, presentRequest, hbusy, hdecode, rejectResponse]
  have hquiet' : quiet (accept { s with inputs := rest }).inputs = true := hquiet
  rw [step_idle_cons idle hin, hfetch, deliver_of_quiet hquiet', Fetched.outcome, answered, accept, ← idle, ← hbusy]
  rfl

end Sys2Proof.Proofs
end

section
/-! SUPPORT. Frames and responses as byte strings: the frame FRAME builds is well formed (R66, R67), PARSE checks a
response as R102 says, and a response built from data bytes passes its checks (R69). -/

namespace Sys2Proof

/-- The part of a string between a string before it and one after it. -/
theorem slice_middle (a b c : Bytes) : slice (a ++ b ++ c) a.length (a.length + b.length) = b := by
  rw [slice_append _ _ _ _ (by simp)]
  simp [slice, List.take_of_length_le]

/-- The CRC of a string is not touched by what follows it. -/
theorem crc16_zero_append (a b : Bytes) : crc16 (a ++ b) 0 a.length = crcOf a := by simp [crc16, slice]

theorem frameMax_le_256 {p : Params} (hp : paramsLegal p = true) : p.frameMax ≤ 256 := by
  simp only [paramsLegal, Bool.and_eq_true, decide_eq_true_eq] at hp
  obtain ⟨⟨⟨⟨⟨⟨⟨-, hmax⟩, -⟩, -⟩, -⟩, -⟩, -⟩, -⟩ := hp
  exact hmax

/-- The frame FRAME builds, cut into its fields (R66, R100). -/
def builtFrame (opcode param1 : Byte) (param2 : Half) (payload : Bytes) : Frame :=
  { count := BitVec.ofNat 8 (countBase + payload.length), param1 := param1, param2 := param2, payload := payload,
    crc := frameCrc opcode param1 param2 payload }

theorem builtFrame_bytes (opcode param1 : Byte) (param2 : Half) (payload : Bytes) :
    (builtFrame opcode param1 param2 payload).bytes opcode = frameBytes opcode param1 param2 payload := rfl

/-- The count byte does not wrap in a frame of at most 256 bytes. -/
theorem count_toNat {n : Nat} (h : 8 + n ≤ 256) : (BitVec.ofNat 8 (countBase + n)).toNat = 7 + n :=
  Nat.mod_eq_of_lt (show 7 + n < 256 by omega)

/-- The CRC of a built frame does not see the two CRC bytes. -/
theorem crc16_frameBytes (opcode param1 : Byte) (param2 : Half) (payload : Bytes) :
    crc16 (frameBytes opcode param1 param2 payload) 1 (5 + payload.length) =
      frameCrc opcode param1 param2 payload :=
  crc16_append _ _ _ _ (by simp [frameHeader]; omega)

/-- The checks of R67 on a frame with its first two bytes. -/
theorem frameWellFormed_cons_iff {p : Params} {flag count : Byte} {rest bs : Bytes} (h : bs = flag :: count :: rest) :
    frameWellFormed p bs = true ↔
      flag = cmdFlag ∧ 7 ≤ count.toNat ∧ count.toNat + 1 ≤ p.frameMax ∧ bs.length = count.toNat + 1 ∧
        bs.drop (count.toNat - 1) =
          [low (crc16 bs 1 (count.toNat - 2)), high (crc16 bs 1 (count.toNat - 2))] := by
  subst h
  simp only [frameWellFormed, Bool.and_eq_true, decide_eq_true_eq, and_assoc]

/-- Under legal parameters, a built frame that fits `FRAME_MAX` is well formed: its count byte does not wrap, and its
last two bytes are the CRC of those between the flag byte and them. -/
theorem frameWellFormed_frameBytes {p : Params} (hp : paramsLegal p = true) {payload : Bytes}
    (hfits : 8 + payload.length ≤ p.frameMax) (opcode param1 : Byte) (param2 : Half) :
    frameWellFormed p (frameBytes opcode param1 param2 payload) = true := by
  have hcount := count_toNat (hfits.trans (frameMax_le_256 hp))
  have hbody : (frameHeader opcode param1 param2 payload.length ++ payload).length = 6 + payload.length := by
    simp [frameHeader]; omega
  have hlast : (frameBytes opcode param1 param2 payload).drop (6 + payload.length) =
      [low (frameCrc opcode param1 param2 payload), high (frameCrc opcode param1 param2 payload)] := by
    rw [frameBytes, ← hbody, List.drop_left]
  refine (frameWellFormed_cons_iff (bs := frameBytes opcode param1 param2 payload) rfl).mpr ?_
  rw [hcount, frameBytes_length, show 7 + payload.length - 1 = 6 + payload.length by omega,
    show 7 + payload.length - 2 = 5 + payload.length by omega, crc16_frameBytes]
  exact ⟨rfl, by omega, by omega, by omega, hlast⟩

/-! ## Responses -/

theorem respLenValid_iff {len : Byte} {rx : Bytes} :
    respLenValid len rx = true ↔ 4 ≤ len.toNat ∧ len.toNat ≤ rx.length := by
  rw [respLenValid, Bool.and_eq_true, decide_eq_true_eq, decide_eq_true_eq, errEnvelopeLen]

/-- The CRC check of a response, byte by byte. -/
theorem respCrcValid_iff {len : Byte} {rx : Bytes} (hlen : respLenValid len rx = true) :
    respCrcValid len rx = true ↔
      rx.getD (len.toNat - 2) 0x00 = low (crcOf (rx.take (len.toNat - 2))) ∧
        rx.getD (len.toNat - 1) 0x00 = high (crcOf (rx.take (len.toNat - 2))) := by
  obtain ⟨hmin, hmax⟩ := respLenValid_iff.mp hlen
  have hslice := slice_two (rx := rx) (a := len.toNat - 2) (by omega)
  rw [show len.toNat - 2 + 2 = len.toNat by omega, show len.toNat - 2 + 1 = len.toNat - 1 by omega] at hslice
  have hcrc : crc16 rx 0 (len.toNat - 2) = crcOf (rx.take (len.toNat - 2)) := by simp [crc16, slice]
  rw [respCrcValid, hslice, hcrc]
  simp

theorem isErrorEnvelope_iff {len : Byte} {rx : Bytes} :
    isErrorEnvelope len rx = true ↔ len.toNat = 4 ∧ rx.getD 1 0x00 ≠ 0x00 := by
  rw [isErrorEnvelope, Bool.and_eq_true, decide_eq_true_eq, decide_eq_true_eq, errEnvelopeLen]

/-- The data of a response, counted from its length byte (R69). -/
theorem respData_eq (len : Byte) (rx : Bytes) : respData len rx = (rx.drop 1).take (len.toNat - 3) := by
  rw [respData, slice, List.drop_take, show len.toNat - 2 - 1 = len.toNat - 3 by omega]

end Sys2Proof

namespace Sys2Proof.Machine

open Sys2Proof.Spec

/-- PARSE checks length, CRC and error envelope as R102 lists them. -/
theorem parseResponse_eq_parseOutcome (rx : Bytes) : parseResponse rx = parseOutcome rx := by
  cases rx with
  | nil => rfl
  | cons len rest =>
    simp only [parseResponse, parseOutcome, List.getD_cons_zero, reduceCtorEq, if_false]
    by_cases hlen : respLenValid len (len :: rest) = true
    · have hrange : ¬ (len.toNat < 4 ∨ len.toNat > (len :: rest).length) := by
        have := respLenValid_iff.mp hlen
        omega
      rw [if_pos hlen, if_neg hrange]
      simp only [respCrcValid_iff hlen, isErrorEnvelope_iff, respData_eq, ne_eq, ← not_and_or, ite_not]
      rfl
    · have hrange : len.toNat < 4 ∨ len.toNat > (len :: rest).length := by
        have := mt respLenValid_iff.mpr hlen
        omega
      rw [if_neg hlen, if_pos hrange]
      rfl

/-- What a response that PARSE accepts is, and that one it refuses has no result. -/
theorem parseResponse_cases (rx : Bytes) :
    (∃ len rest, rx = len :: rest ∧ parseResponse rx = respOk (respData len rx) ∧
        (respData len rx).length = len.toNat - 3) ∨
      ((parseResponse rx).kind ≠ .ok ∧ (parseResponse rx).result = none) := by
  cases rx with
  | nil => exact .inr ⟨by decide, rfl⟩
  | cons len rest =>
    simp only [parseResponse]
    split
    · next hlen =>
      obtain ⟨hmin, hmax⟩ := respLenValid_iff.mp hlen
      split
      · split
        · exact .inr ⟨nofun, rfl⟩
        · refine .inl ⟨len, rest, rfl, rfl, ?_⟩
          rw [respData, slice_length _ _ _ (by omega)]
          omega
      · exact .inr ⟨nofun, rfl⟩
    · exact .inr ⟨nofun, rfl⟩

/-- The length check of a command comes after PARSE and touches no refusal (R121). -/
theorem checkDataLen_parseResponse (d : Option Nat) (rx : Bytes) :
    checkDataLen d (parseResponse rx) = commandOutcome d rx := by
  cases d with
  | none => exact parseResponse_eq_parseOutcome rx
  | some n =>
    rw [commandOutcome, ← parseResponse_eq_parseOutcome]
    obtain ⟨len, rest, rfl, hok, hlength⟩ | ⟨hkind, hresult⟩ := parseResponse_cases rx
    · rw [hok]
      by_cases hn : len.toNat - 3 = n
      · simp [checkDataLen, respOk, hlength, hn]
      · simp [checkDataLen, respOk, hlength, hn, respCrcMismatch, raised]
    · simp [checkDataLen, hkind, hresult]

/-- A response that passes the checks of PARSE answers its data. -/
theorem parseResponse_of_valid {len : Byte} {rest : Bytes} (hlen : respLenValid len (len :: rest) = true)
    (hcrc : respCrcValid len (len :: rest) = true) (henvelope : ¬ isErrorEnvelope len (len :: rest) = true) :
    parseResponse (len :: rest) = respOk (respData len (len :: rest)) := by
  rw [parseResponse, if_pos hlen, if_pos hcrc, if_neg henvelope]

/-- A response with its own length byte and CRC answers its data bytes, whatever follows it; a lone data byte is a
status byte 0. -/
theorem parseResponse_wellBuilt {len lo hi : Byte} {d padding : Bytes} (hlength : len.toNat = d.length + 3)
    (hlo : low (crcOf (len :: d)) = lo) (hhi : high (crcOf (len :: d)) = hi) (hmin : 1 ≤ d.length)
    (hstatus : d.length = 1 → d = [0x00]) : parseResponse (len :: (d ++ lo :: hi :: padding)) = respOk d := by
  have hlen : respLenValid len (len :: (d ++ lo :: hi :: padding)) = true :=
    respLenValid_iff.mpr ⟨by omega, by simp; omega⟩
  have hcrc : respCrcValid len (len :: (d ++ lo :: hi :: padding)) = true := by
    have hcovered : crc16 (len :: (d ++ lo :: hi :: padding)) 0 (d.length + 1) = crcOf (len :: d) :=
      crc16_zero_append (len :: d) (lo :: hi :: padding)
    have htrailer := slice_middle (len :: d) [lo, hi] padding
    simpa [respCrcValid, hlength, hcovered, hlo, hhi] using htrailer
  have henvelope : ¬ isErrorEnvelope len (len :: (d ++ lo :: hi :: padding)) = true := by
    rw [isErrorEnvelope_iff]
    rintro ⟨hfour, hcode⟩
    rw [hstatus (by omega)] at hcode
    exact hcode rfl
  have hdata : respData len (len :: (d ++ lo :: hi :: padding)) = d := by simp [respData_eq, hlength]
  rw [parseResponse_of_valid hlen hcrc henvelope, hdata]

end Sys2Proof.Machine
end

section
/-! The statements about frames and responses as byte strings. -/

namespace Sys2Proof.Proofs

open Sys2Proof.Machine Sys2Proof.Spec

/-- Settles O10. -/
theorem everyBuiltFrameIsWellFormed : Obligations.EveryBuiltFrameIsWellFormed := by
  intro p opcode param1 param2 payload hp hfits
  have hmax := hfits.trans (frameMax_le_256 hp)
  exact ⟨frameWellFormed_frameBytes hp hfits opcode param1 param2, frameBytes_length _ _ _ _, count_toNat hmax,
    (frameBytes_length _ _ _ _).trans_le hmax⟩

/-- Settles O12. -/
theorem parseOfABuiltResponseIsItsData : Obligations.ParseOfABuiltResponseIsItsData := by
  intro d padding hmin hmax hstatus
  have hlength : (BitVec.ofNat 8 (d.length + 3)).toNat = d.length + 3 := Nat.mod_eq_of_lt (by omega)
  simpa [responseOf, okBytes, respOk] using parseResponse_wellBuilt (padding := padding) hlength rfl rfl hmin hstatus

/-- Settles O39: the outcome is that of PARSE, then of the length check. -/
theorem responseEndsTheOperationInFlight : Obligations.ResponseEndsTheOperationInFlight := by
  intro s len rest hquiet
  have hend : exec (.response len rest) s = .next (answered (commandOutcome s.codec.dataLen (len :: rest))
      (parseCrc (len :: rest) { s with codec := { s.codec with rx := len :: rest } })) := by
    rw [← checkDataLen_parseResponse]
    exact congrArg _ (deliver_of_quiet (by simpa using hquiet))
  exact ⟨_, ⟨hend, by simp, rfl, rfl, by simp, by simp, by simp, by simp⟩, by simp, by simp⟩

end Sys2Proof.Proofs
end

section
/-! SUPPORT. A SEND from the frame in `TX` to its end, in the three ways the transport can answer (R104, R105): `Nack`
on the write, bytes after `k` reads answered `Nack`, `Nack` on every read. -/

namespace Sys2Proof.Machine

open Sys2Proof.Spec

/-- The state after `k` reads answered `Nack`, `rest` being what is left of the inputs. -/
def afterNacks (k : Nat) (rest : List Input) (s : State) : State :=
  { s with
    codec := { s.codec with attempt := s.codec.attempt + k }
    inputs := rest
    wire := s.wire ++ List.replicate k (.read s.codec.respLen none)
    freeCount := s.freeCount + k }

section
variable {s : State} {rest : List Input}

theorem transmit_ack (hin : s.inputs = .writeAnswer true :: rest) :
    transmit s = poll s.params.pollMax (txWrite (startAttempts s)) := by
  have hquiet : quiet (startAttempts s).inputs = true := by simp [hin, quiet]
  rw [transmit, onArrivals_of_quiet hquiet, if_pos (by simp [writeAnswerOf, hin])]
  rfl

theorem transmit_nack (hin : s.inputs = .writeAnswer false :: rest) :
    transmit s = deliver respNoResponse (txWrite (startAttempts s)) := by
  have hquiet : quiet (startAttempts s).inputs = true := by simp [hin, quiet]
  rw [transmit, onArrivals_of_quiet hquiet, if_neg (by simp [writeAnswerOf, hin])]

theorem poll_nack (k : Nat) (hin : s.inputs = .readAnswer none :: rest) : poll (k + 1) s = poll k (txRead s) := by
  have hquiet : quiet s.inputs = true := by simp [hin, quiet]
  rw [poll, onArrivals_of_quiet hquiet]
  simp [readAnswerOf, hin]

theorem readAnswerOf_bytes {rx : Bytes} {n : Nat} (hin : s.inputs = .readAnswer (some rx) :: rest)
    (hrx : rx.length = n) : readAnswerOf n s = some rx := by
  simp [readAnswerOf, hin, fillRead_of_length hrx]

theorem poll_bytes {rx : Bytes} (k : Nat) (hin : s.inputs = .readAnswer (some rx) :: rest)
    (hrx : rx.length = s.codec.respLen) : poll (k + 1) s = finish (receive rx (txRead s)) := by
  have hquiet : quiet s.inputs = true := by simp [hin, quiet]
  rw [poll, onArrivals_of_quiet hquiet]
  simp only [readAnswerOf_bytes hin hrx]

/-- The poll loop goes through `k` reads answered `Nack` one by one. -/
theorem poll_afterNacks (k m : Nat) (hin : s.inputs = List.replicate k (.readAnswer none) ++ rest) :
    poll (k + m) s = poll m (afterNacks k rest s) := by
  induction k generalizing s with
  | zero =>
    subst hin
    simp [afterNacks]
  | succ k ih =>
    have hcons : s.inputs = .readAnswer none :: (List.replicate k (.readAnswer none) ++ rest) := hin
    have hstep : afterNacks k rest (txRead s) = afterNacks (k + 1) rest s := by
      simp [afterNacks, readAnswerOf, hcons, List.replicate_succ, Nat.add_assoc, Nat.add_comm 1]
    rw [Nat.add_right_comm, poll_nack _ hcons, ih (by simp [hcons, dropReadAnswer]), hstep]

/-- The poll loop ends at the first read that returns bytes, the `k + 1`st. -/
theorem poll_bytes_afterNacks {rx : Bytes} (k m : Nat)
    (hin : s.inputs = List.replicate k (.readAnswer none) ++ .readAnswer (some rx) :: rest)
    (hrx : rx.length = s.codec.respLen) :
    poll (k + m + 1) s = finish (receive rx (txRead (afterNacks k (.readAnswer (some rx) :: rest) s))) :=
  (poll_afterNacks k (m + 1) hin).trans (poll_bytes m rfl hrx)

/-- With no arrival, the response in `RX` ends the operation with its outcome. -/
theorem finish_of_quiet (hquiet : quiet s.inputs = true) :
    finish s = answered (commandOutcome s.codec.dataLen s.codec.rx) (parseCrc s.codec.rx s) := by
  rw [finish, checkDataLen_parseResponse, deliver_of_quiet (by simpa using hquiet)]

end

/-- The instruction `i` has `frame` put into `TX` in the state `u`, for reads of `n` bytes and `dataLen` data bytes, and
transmits it. -/
structure Transmits (i : Instr) (frame : Bytes) (n : Nat) (dataLen : Option Nat) (s u : State) : Prop where
  next : exec i s = .next (transmit u)
  same : SameOutside s u
  hashUnit : u.hashUnit = s.hashUnit
  tx : u.codec.tx = frame
  respLen : u.codec.respLen = n
  dataLen : u.codec.dataLen = dataLen

/-- What transmits a frame runs it, whichever way the transport answers (R104). -/
theorem Transmits.runsFrame {i : Instr} {frame : Bytes} {n : Nat} {dataLen : Option Nat} {s u : State}
    (h : Transmits i frame n dataLen s u) : RunsFrame i frame n dataLen s := by
  obtain ⟨hnext, ⟨hparams, hinputs, hdelivered, hwire, -⟩, hhash, rfl, rfl, rfl⟩ := h
  constructor
  case writeNack =>
    intro rest hquiet hin
    rw [← hinputs] at hin
    rw [transmit_nack hin, deliver_of_quiet (by simpa [hin, dropWriteAnswer] using hquiet)] at hnext
    refine ⟨_, hnext, ?_, ?_, ?_, rfl, rfl, hparams, hhash, rfl, rfl⟩
    · simp [hdelivered, respNoResponse, respRaise, raised]
    · simp [hwire, writeAnswerOf, hin]
    · simp [hin, dropWriteAnswer]
  case everyReadNack =>
    intro rest hquiet hin
    rw [← hinputs, ← hparams] at hin
    have hreads : (txWrite (startAttempts u)).inputs =
        List.replicate u.params.pollMax (.readAnswer none) ++ rest := by simp [hin, dropWriteAnswer]
    have hpoll := poll_afterNacks u.params.pollMax 0 hreads
    rw [Nat.add_zero] at hpoll
    rw [transmit_ack hin, hpoll, poll, deliver_of_quiet hquiet] at hnext
    refine ⟨_, hnext, ?_, ?_, rfl, rfl, rfl, hparams, hhash, rfl, ?_⟩
    · simp [afterNacks, hdelivered, respNoResponse, respRaise, raised]
    · simp [afterNacks, hwire, hparams, writeAnswerOf, hin]
    · simp [afterNacks, hparams]
  case bytesRead =>
    intro k rx rest hk hrx hquiet hin
    rw [← hinputs] at hin
    rw [← hparams] at hk
    obtain ⟨m, hm⟩ := Nat.exists_eq_add_of_lt hk
    have hreads : (txWrite (startAttempts u)).inputs =
        List.replicate k (.readAnswer none) ++ .readAnswer (some rx) :: rest := by simp [hin, dropWriteAnswer]
    rw [transmit_ack hin, hm, poll_bytes_afterNacks k m hreads hrx, finish_of_quiet hquiet] at hnext
    refine ⟨_, ⟨hnext, ?_, ?_, ?_, rfl, rfl, ?_, ?_, ?_, ?_⟩, ?_⟩
    · simp [afterNacks, hdelivered]
    · simp [afterNacks, hwire, writeAnswerOf, hin, readAnswerOf, fillRead_of_length hrx]
    · simp [afterNacks, dropReadAnswer]
    all_goals simp [afterNacks, hparams, hhash]

/-- A command frame on the transport is transmitted as it stands, with reads of 38 bytes (log 7). -/
theorem runsFrame_of_runWire {i : Instr} {opcode : Byte} {f : Frame} {dataLen : Nat} {s : State}
    (h : exec i s = .next (runWire opcode f dataLen s)) : RunsFrame i (rawFrame opcode f) 38 (some dataLen) s :=
  Transmits.runsFrame ⟨h, ⟨rfl, rfl, rfl, rfl, rfl⟩, rfl, rfl, rfl, rfl⟩

end Sys2Proof.Machine
end

section
/-! SUPPORT. A command and its frame on the transport: the fields of the frame a well-formed command builds are those
its WIRE row asks for (R74, R75, R122 to R128), and both run alike (R85, R120; log 7). -/

namespace Sys2Proof

/-- The size bit of a Read can be read back: no zone code reaches bit 7 (R73, R74). -/
theorem sizeBitSet_readParam1 {p : Params} (hp : paramsLegal p = true) (z : Zone) (fourByte : Bool) :
    sizeBitSet (readParam1 p z fourByte) = !fourByte := by
  have hzone : (zoneCode p z).toNat ≤ 2 := by
    simp only [paramsLegal, Bool.and_eq_true, decide_eq_true_eq] at hp
    obtain ⟨⟨⟨⟨-, hconfig⟩, hotp⟩, hdata⟩, -⟩ := hp
    cases z
    · exact hconfig
    · exact hotp
    · exact hdata
  have hbit : (zoneCode p z).getLsbD 7 = false := Nat.testBit_lt_two_pow (by omega)
  simp only [sizeBitSet, readParam1, BitVec.getLsbD_or, hbit, Bool.false_or]
  cases fourByte <;> rfl

theorem readFrameOk_builtFrame (p : Params) (z : Zone) (fourByte : Bool) (opcode : Byte) (param2 : Half) :
    readFrameOk p (builtFrame opcode (readParam1 p z fourByte) param2 []) = true := by
  cases z <;> cases fourByte <;> simp [readFrameOk, builtFrame]

/-- Of the data of a Write its `param1` tells the length only. -/
theorem writeParam1_congr (p : Params) (z : Zone) {a b : Bytes} (h : a.length = b.length) (encrypted : Bool) :
    writeParam1 p z a encrypted = writeParam1 p z b encrypted := by
  simp only [writeParam1, h]

/-- Data and MAC of a well-formed Write make one of the four payload lengths, and the size bit tells which pair. -/
theorem writeFrameOk_builtFrame (p : Params) (z : Zone) (encrypted : Bool) {data : Bytes} {mac : Option Bytes}
    (hdata : writeDataOk data = true) (hmac : writeMacOk mac = true) (opcode : Byte) (param2 : Half) :
    writeFrameOk p (builtFrame opcode (writeParam1 p z data encrypted) param2 (writePayload data mac)) = true := by
  have hmaclen : (mac.getD []).length = 0 ∨ (mac.getD []).length = 32 := by
    cases mac with
    | none => exact .inl rfl
    | some m => exact .inr (writeMacOk_iff.mp hmac m rfl)
  have hzone : ∀ q : Zone → Bool, q z = true → [Zone.config, Zone.otp, Zone.data].any q = true := by
    intro q hq
    cases z <;> simp [hq]
  have hflag : ∀ q : Bool → Bool, q encrypted = true → [false, true].any q = true := by
    intro q hq
    cases encrypted <;> simp [hq]
  simp only [writeFrameOk, Bool.or_eq_true, Bool.and_eq_true]
  obtain h4 | h32 := writeDataOk_iff.mp hdata
  · refine .inl ⟨?_, hzone _ (hflag _ ?_)⟩
    · obtain h | h := hmaclen <;> simp [builtFrame, writePayload, h4, h]
    · exact decide_eq_true (writeParam1_congr p z h4 encrypted)
  · refine .inr ⟨?_, hzone _ (hflag _ ?_)⟩
    · obtain h | h := hmaclen <;> simp [builtFrame, writePayload, h32, h]
    · exact decide_eq_true (writeParam1_congr p z h32 encrypted)

theorem lockFrameOk_builtFrame (p : Params) (isData skipChecksum : Bool) (opcode : Byte) (checksum : Half) :
    lockFrameOk p (builtFrame opcode (lockParam1 p isData skipChecksum) checksum []) = true := by
  cases isData <;> cases skipChecksum <;> simp [lockFrameOk, builtFrame]

/-- A slot passes through `param2` unchanged. -/
theorem slotOk_slotParam {slot : Nat} (h : slotOk slot = true) : slotOk (slotParam slot).toNat = true := by
  have hslot := slotOk_iff.mp h
  have hparam : (slotParam slot).toNat = slot := Nat.mod_eq_of_lt (by omega)
  rwa [hparam]

end Sys2Proof

namespace Sys2Proof.Machine

/-! ## A command whose checks pass sends its frame (R122 to R127) -/

section
variable {s : State}

theorem exec_cmdRead {zone : Byte} {block offset : Nat} {z : Zone} (hz : zoneOfCode s.params zone = some z)
    (hloc : locationFits block offset = true) (fourByte : Bool) :
    exec (.cmdRead zone block offset fourByte) s = .next (sendCommand s.params.opcRead
      (readParam1 s.params z fourByte) (locationParam block offset) [] (readLen fourByte) s) := by
  simp [exec, execCmdRead, hz, hloc]

theorem exec_cmdWrite {zone : Byte} {block offset : Nat} {data : Bytes} {mac : Option Bytes} {z : Zone}
    (hz : zoneOfCode s.params zone = some z) (hdata : writeDataOk data = true) (hmac : writeMacOk mac = true)
    (hloc : locationFits block offset = true) (encrypted : Bool) :
    exec (.cmdWrite zone block offset data mac encrypted) s = .next (sendCommand s.params.opcWrite
      (writeParam1 s.params z data encrypted) (locationParam block offset) (writePayload data mac) 1 s) := by
  simp [exec, execCmdWrite, hz, hdata, hmac, hloc]

theorem exec_cmdNonce {mode : Byte} {input : Bytes} (hinput : input.length ≤ nonceInputMax mode) :
    exec (.cmdNonce mode input) s = .next (sendCommand s.params.opcNonce mode 0x0000 input (nonceLen mode) s) :=
  congrArg _ (if_pos hinput)

theorem exec_cmdGendig {zone : Byte} {slot : Nat} (hzone : zoneOk s.params zone = true) (hslot : slotOk slot = true)
    (extra : Bytes) :
    exec (.cmdGendig zone slot extra) s =
      .next (sendCommand s.params.opcGendig zone (slotParam slot) extra 1 s) := by
  obtain ⟨z, hz⟩ := Option.isSome_iff_exists.mp hzone
  simp [exec, execCmdGendig, hz, hslot, zoneCode_of_zoneOfCode hz]

theorem exec_cmdMac {slot : Nat} {challenge : Bytes} (hslot : slotOk slot = true)
    (hchallenge : macChallengeOk challenge = true) (flags : Byte) :
    exec (.cmdMac slot challenge flags) s =
      .next (sendCommand s.params.opcMac flags (slotParam slot) challenge 32 s) := by
  simp [exec, execCmdMac, hslot, hchallenge]

theorem exec_cmdCheckmac {slot : Nat} {challenge response otherData : Bytes} (hslot : slotOk slot = true)
    (hchallenge : lenOk challenge 32 = true) (hresponse : lenOk response 32 = true)
    (hother : lenOk otherData otherDataLen = true) (flags : Byte) :
    exec (.cmdCheckmac slot challenge response otherData flags) s = .next (sendCommand s.params.opcCheckmac flags
      (slotParam slot) (challenge ++ response ++ otherData) 1 s) := by
  simp [exec, execCmdCheckmac, hslot, hchallenge, hresponse, hother]

end

/-! ## Its frame on the transport runs alike -/

/-- SEND of a command and the transmission of its frame are one: the CRC unit is where building the frame leaves it. -/
theorem sendCommand_eq_runWire {s : State} (opcode param1 : Byte) (param2 : Half) {payload : Bytes} (dataLen : Nat)
    (hfits : frameFits s.params payload = true) :
    sendCommand opcode param1 param2 payload dataLen s =
      runWire opcode (builtFrame opcode param1 param2 payload) dataLen
        { s with
          crcUnit := crcAfter (frameBytes opcode param1 param2 payload) 1
            ((frameBytes opcode param1 param2 payload).length - 3) } := by
  have hcovered : (frameBytes opcode param1 param2 payload).length - 3 = 5 + payload.length := by
    rw [frameBytes_length]; omega
  have hcrc : crcAfter (frameBytes opcode param1 param2 payload) 1 (5 + payload.length) =
      crcAfter (frameHeader opcode param1 param2 payload.length ++ payload) 1 (5 + payload.length) := by
    rw [crcAfter, crc16_frameBytes]
    rfl
  have hlen : respLenOk respReadLen = true := rfl
  rw [sendCommand, sendFrame, if_pos hlen, if_pos hfits, hcovered, hcrc]
  rfl

/-- A command that sends a frame runs as the WIRE row its opcode tells, where the frame has the fields of that row. -/
theorem runs_as_wire_frame {i j : Instr} {fieldsOk : Bool} {s : State} {opcode param1 : Byte} {param2 : Half}
    {payload : Bytes} {dataLen : Nat} (hp : paramsLegal s.params = true) (hfits : frameFits s.params payload = true)
    (hi : exec i s = .next (sendCommand opcode param1 param2 payload dataLen s))
    (hwire : wireOf s.params opcode (builtFrame opcode param1 param2 payload) = .ok j)
    (hwf : wellFormed s.params j = (frameWellFormed s.params (frameBytes opcode param1 param2 payload) && fieldsOk))
    (hfields : fieldsOk = true)
    (hj : ∀ c, exec j { s with crcUnit := c } =
      .next (runWire opcode (builtFrame opcode param1 param2 payload) dataLen { s with crcUnit := c })) :
    ∃ frame j, decodeFrame s.params frame = .ok j ∧ wellFormed s.params j = true ∧
      exec i s = exec j { s with crcUnit := crcAfter frame 1 (frame.length - 3) } := by
  refine ⟨frameBytes opcode param1 param2 payload, j, ?_, ?_, ?_⟩
  · rw [← builtFrame_bytes, decodeFrame_bytes, hwire]
  · rw [hwf, frameWellFormed_frameBytes hp (frameFits_iff.mp hfits), hfields]
    rfl
  · rw [hi, sendCommand_eq_runWire _ _ _ _ hfits, hj]

end Sys2Proof.Machine
end

section
/-! The statements about frames on the transport. -/

namespace Sys2Proof.Proofs

open Sys2Proof.Machine Sys2Proof.Spec

/-- Settles O38: each row transmits its frame; Read and Nonce tell their data length in `param1`. -/
theorem wireFramesRunTheirCommand : Obligations.WireFramesRunTheirCommand := by
  intro s f
  have hread : readLen (!sizeBitSet f.param1) = if f.param1.getLsbD 7 then 32 else 4 := by
    rw [sizeBitSet]
    cases f.param1.getLsbD 7 <;> rfl
  exact ⟨hread ▸ runsFrame_of_runWire rfl, runsFrame_of_runWire rfl, runsFrame_of_runWire rfl,
    runsFrame_of_runWire rfl, runsFrame_of_runWire rfl, runsFrame_of_runWire rfl, runsFrame_of_runWire rfl⟩

/-- Settles O40, command by command: the checks of the command pass, and its frame has the fields of its WIRE row. -/
theorem eachCommandRunsAsItsWireFrame : Obligations.EachCommandRunsAsItsWireFrame := by
  intro i s hp hi hwf hsend
  cases i with
  | send c p1 p2 pl n => exact absurd rfl (hsend c p1 p2 pl n)
  | cmdRead zone block offset fourByte =>
    simp only [wellFormed, zoneOk, Bool.and_eq_true, Option.isSome_iff_exists] at hwf
    obtain ⟨⟨⟨z, hz⟩, hloc⟩, hfits⟩ := hwf
    have hlen : readLen (!sizeBitSet (readParam1 s.params z fourByte)) = readLen fourByte := by
      rw [sizeBitSet_readParam1 hp, Bool.not_not]
    exact runs_as_wire_frame hp hfits (exec_cmdRead hz hloc fourByte) (wireOf_read _) rfl
      (readFrameOk_builtFrame ..) fun _ => hlen ▸ rfl
  | cmdWrite zone block offset data mac encrypted =>
    simp only [wellFormed, zoneOk, Bool.and_eq_true, Option.isSome_iff_exists] at hwf
    obtain ⟨⟨⟨⟨⟨z, hz⟩, hdata⟩, hmac⟩, hloc⟩, hfits⟩ := hwf
    exact runs_as_wire_frame hp hfits (exec_cmdWrite hz hdata hmac hloc encrypted) (wireOf_write hp _) rfl
      (writeFrameOk_builtFrame _ z encrypted hdata hmac _ _) fun _ => rfl
  | cmdNonce mode input =>
    obtain ⟨hinput, hfits⟩ := Bool.and_eq_true_iff.mp hwf
    exact runs_as_wire_frame hp hfits (exec_cmdNonce (of_decide_eq_true hinput)) (wireOf_nonce hp _) rfl
      (Bool.and_eq_true_iff.mpr ⟨rfl, hinput⟩) fun _ => rfl
  | cmdGendig zone slot extra =>
    simp only [wellFormed, Bool.and_eq_true] at hwf
    obtain ⟨⟨hzone, hslot⟩, hfits⟩ := hwf
    exact runs_as_wire_frame hp hfits (exec_cmdGendig hzone hslot extra) (wireOf_gendig hp _) rfl
      (Bool.and_eq_true_iff.mpr ⟨hzone, slotOk_slotParam hslot⟩) fun _ => rfl
  | cmdMac slot challenge flags =>
    simp only [wellFormed, Bool.and_eq_true] at hwf
    obtain ⟨⟨hslot, hchallenge⟩, hfits⟩ := hwf
    exact runs_as_wire_frame hp hfits (exec_cmdMac hslot hchallenge flags) (wireOf_mac hp _) rfl
      (Bool.and_eq_true_iff.mpr ⟨slotOk_slotParam hslot, hchallenge⟩) fun _ => rfl
  | cmdCheckmac slot challenge response otherData flags =>
    simp only [wellFormed, Bool.and_eq_true] at hwf
    obtain ⟨⟨⟨⟨hslot, hchallenge⟩, hresponse⟩, hother⟩, hfits⟩ := hwf
    have hpayload : lenOk (challenge ++ response ++ otherData) 77 = true := by
      simp only [lenOk_iff, otherDataLen, List.length_append] at hchallenge hresponse hother ⊢
      omega
    exact runs_as_wire_frame hp hfits (exec_cmdCheckmac hslot hchallenge hresponse hother flags)
      (wireOf_checkmac hp _) rfl (Bool.and_eq_true_iff.mpr ⟨slotOk_slotParam hslot, hpayload⟩) fun _ => rfl
  | cmdLock isData checksum skipChecksum =>
    exact runs_as_wire_frame hp hwf rfl (wireOf_lock hp _) rfl (lockFrameOk_builtFrame ..) fun _ => rfl
  | _ => simp [isCommand] at hi

end Sys2Proof.Proofs
end

section
/-! SUPPORT. The CRC as a linear map on register and bytes (R90 to R94): `rev8` bit by bit, a CRC step as eight
bit-serial steps, linear in register and byte together and one-to-one in each. -/

namespace Sys2Proof

/-! ## The reversed byte -/

/-- `out[i] = b[7-i]` (R90). -/
theorem getLsbD_rev8 (b : Byte) {i : Nat} (hi : i < 8) : (rev8 b).getLsbD i = b.getLsbD (7 - i) := by
  interval_cases i <;> simp [rev8]

theorem rev8_rev8 (b : Byte) : rev8 (rev8 b) = b := by
  apply BitVec.eq_of_getLsbD_eq
  intro i hi
  rw [getLsbD_rev8 _ hi, getLsbD_rev8 _ (by omega), Nat.sub_sub_self (by omega)]

/-- What `crc_step` XORs into the register: the reversed byte in bits 15..8 (R91). -/
def reversedOnTop (b : Byte) : Half := (rev8 b).zeroExtend 16 <<< 8

/-- From the top bit down it holds the bits of the byte, bit 0 first. -/
theorem getMsbD_reversedOnTop (b : Byte) (k : Nat) : (reversedOnTop b).getMsbD k = b.getLsbD k := by
  rw [reversedOnTop, BitVec.getMsbD_eq_getLsbD, BitVec.getLsbD_shiftLeft, BitVec.getLsbD_setWidth]
  by_cases hk : k < 8
  · have hbit : 16 - 1 - k - 8 = 7 - k := by omega
    have hrange : k < 16 ∧ 15 - k < 16 ∧ ¬ 15 - k < 8 ∧ 7 - k < 16 := by omega
    rw [hbit, getLsbD_rev8 _ (by omega), Nat.sub_sub_self (by omega)]
    simp [hrange]
  · have hrange : 15 - k < 8 ∧ 8 ≤ k := by omega
    simp [hrange]

theorem reversedOnTop_xor (a b : Byte) : reversedOnTop (a ^^^ b) = reversedOnTop a ^^^ reversedOnTop b := by
  apply BitVec.eq_of_getMsbD_eq
  intro k _
  simp only [BitVec.getMsbD_xor, getMsbD_reversedOnTop, BitVec.getLsbD_xor]

theorem reversedOnTop_injective : Function.Injective reversedOnTop := fun a b h => by
  apply BitVec.eq_of_getLsbD_eq
  intro k _
  rw [← getMsbD_reversedOnTop, h, getMsbD_reversedOnTop]

theorem crcStep_eq_crcShifts (c : Half) (b : Byte) : crcStep c b = crcShifts 8 (c ^^^ reversedOnTop b) := rfl

/-! ## A step shift by shift -/

theorem crcShifts_eq_foldl (n : Nat) (c : Half) :
    crcShifts n c = (List.range n).foldl (fun c _ => crcShift c) c := by
  induction n generalizing c with
  | zero => rfl
  | succ n ih => rw [crcShifts, ih, List.range_succ_eq_map, List.foldl_cons, List.foldl_map]

/-- Of a word XOR-ed into the register a shift uses the top bit, as the bit-serial form uses its data bit; the other bits
wait for the next shifts. -/
theorem crcShift_xor_eq_serialShift (c w : Half) :
    crcShift (c ^^^ w) = crcSerialShift c (w.getMsbD 0) ^^^ w <<< 1 := by
  have htop : w.getMsbD 0 = w.getLsbD 15 := rfl
  have hshift : (c ^^^ w) <<< 1 = c <<< 1 ^^^ w <<< 1 := BitVec.shiftLeft_xor_distrib c w 1
  rw [crcShift, crcSerialShift, BitVec.getLsbD_xor, hshift, htop]
  cases c.getLsbD 15 <;> cases w.getLsbD 15 <;> simp [BitVec.xor_assoc, BitVec.xor_comm crcPoly]

/-- `n` shifts of a register with a word of `n` bits in its top take the bits of the word one by one, the most
significant first. -/
theorem crcShifts_xor_eq_foldl_serialShift (n : Nat) (c w : Half) (hw : ∀ k, n ≤ k → w.getMsbD k = false) :
    crcShifts n (c ^^^ w) = (List.range n).foldl (fun c k => crcSerialShift c (w.getMsbD k)) c := by
  induction n generalizing c w with
  | zero =>
    have hzero : w = 0 := BitVec.eq_of_getMsbD_eq fun k _ => by simpa using hw k (Nat.zero_le k)
    simp [hzero, crcShifts]
  | succ n ih =>
    have hnext : ∀ k, (w <<< 1).getMsbD k = w.getMsbD (k + 1) := fun k => by
      rw [BitVec.getMsbD_shiftLeft, Nat.add_comm]
    have hrest := ih (crcSerialShift c (w.getMsbD 0)) (w <<< 1) fun k hk => (hnext k).trans (hw (k + 1) (by omega))
    simp only [hnext] at hrest
    rw [crcShifts, crcShift_xor_eq_serialShift, List.range_succ_eq_map, List.foldl_cons, List.foldl_map, hrest]

/-! ## Linearity -/

/-- A step is linear in register and byte together (R94). -/
theorem crcStep_xor (c d : Half) (a b : Byte) : crcStep (c ^^^ d) (a ^^^ b) = crcStep c a ^^^ crcStep d b := by
  have hinput : c ^^^ d ^^^ reversedOnTop (a ^^^ b) = (c ^^^ reversedOnTop a) ^^^ (d ^^^ reversedOnTop b) := by
    rw [reversedOnTop_xor]
    ac_rfl
  simp only [crcStep_eq_crcShifts, hinput, crcShifts_xor]

theorem foldl_crcStep_xor {a b : Bytes} (h : a.length = b.length) (c d : Half) :
    (List.zipWith (· ^^^ ·) a b).foldl crcStep (c ^^^ d) = a.foldl crcStep c ^^^ b.foldl crcStep d := by
  induction a generalizing b c d with
  | nil => rw [List.length_eq_zero_iff.mp h.symm]; rfl
  | cons x a ih =>
    obtain ⟨y, b, rfl⟩ := List.exists_cons_of_length_eq_add_one h.symm
    rw [List.zipWith_cons_cons, List.foldl_cons, crcStep_xor, ih (Nat.succ_inj.mp h)]
    rfl

/-! ## A step loses nothing -/

/-- A set bit 15 leaves the polynomial's bit 0, and a clear one is no loss. -/
theorem crcShift_eq_zero {c : Half} (h : crcShift c = 0) : c = 0 := by
  have htop : c.getLsbD 15 = false := by
    by_contra hset
    have hbit : (c <<< 1 ^^^ crcPoly).getLsbD 0 = true := by simp [crcPoly]
    rw [crcShift, if_pos (Bool.of_not_eq_false hset)] at h
    simp [h] at hbit
  rw [crcShift, htop, if_neg Bool.false_ne_true] at h
  apply BitVec.eq_of_getLsbD_eq
  intro i hi
  obtain hlt | rfl : i < 15 ∨ i = 15 := by omega
  · have hbit : (c <<< 1).getLsbD (i + 1) = c.getLsbD i := by simp; omega
    rw [h] at hbit
    simpa using hbit.symm
  · simpa using htop

theorem crcShift_injective : Function.Injective crcShift := fun a b h => by
  have hxor : crcShift (a ^^^ b) = 0 := by rw [crcShift_xor, h]; exact BitVec.xor_self
  exact BitVec.xor_eq_zero_iff.mp (crcShift_eq_zero hxor)

theorem crcShifts_injective (n : Nat) : Function.Injective (crcShifts n) := by
  induction n with
  | zero => exact Function.injective_id
  | succ n ih => exact ih.comp crcShift_injective

theorem crcStep_left_injective (b : Byte) : Function.Injective fun c => crcStep c b :=
  (crcShifts_injective 8).comp fun _ _ => (BitVec.xor_left_inj _).mp

theorem crcStep_right_injective (c : Half) : Function.Injective (crcStep c) :=
  ((crcShifts_injective 8).comp fun _ _ => (BitVec.xor_right_inj _).mp).comp reversedOnTop_injective

/-- No string makes two registers one. -/
theorem foldl_crcStep_injective (s : Bytes) : Function.Injective fun c => s.foldl crcStep c := by
  induction s with
  | nil => exact Function.injective_id
  | cons b s ih => exact ih.comp (crcStep_left_injective b)

/-- Strings that differ in exactly one byte have different CRCs (R94). -/
theorem crcOf_changed_byte {a b : Byte} (h : a ≠ b) (before after : Bytes) :
    crcOf (before ++ a :: after) ≠ crcOf (before ++ b :: after) := by
  simp only [crcOf, List.foldl_append, List.foldl_cons]
  exact fun heq => h (crcStep_right_injective _ (foldl_crcStep_injective after heq))

/-! ## Strings -/

theorem crcStep_zero : crcStep 0x0000 0x00 = 0x0000 := by decide

/-- The zero register absorbs zero bytes without a change (R94). -/
theorem crcOf_replicate_zero (n : Nat) : crcOf (List.replicate n 0x00) = 0x0000 := by
  induction n with
  | zero => rfl
  | succ n ih => rwa [crcOf, List.replicate_succ, List.foldl_cons, crcInit, crcStep_zero]

theorem crc16_whole {s : Bytes} {n : Nat} (h : s.length = n) : crc16 s 0 n = crcOf s := by
  simpa [h] using crc16_zero_append s []

/-- The range of CRC16 as the rule walks it: `length` bytes from `offset` on (R93). -/
theorem crc16_eq_foldl (s : Bytes) (offset length : Nat) :
    crc16 s offset length = ((s.drop offset).take length).foldl crcStep 0x0000 := by
  rw [crc16, slice, List.drop_take, Nat.add_sub_cancel_left]
  rfl

/-- Strings of one length, put together. -/
theorem length_flatten_of_forall {ss : List Bytes} {n : Nat} (h : ∀ s ∈ ss, s.length = n) :
    ss.flatten.length = ss.length * n := by
  rw [List.length_flatten, List.eq_replicate_of_mem (a := n) (l := ss.map List.length) (by simpa using h)]
  simp

end Sys2Proof

namespace Sys2Proof.Machine

/-- A response of full length whose last two bytes are not the CRC of the bytes before them is `CrcMismatch(0)`, whatever
follows it (R102). -/
theorem parseResponse_wrongCrc {len : Byte} {d padding : Bytes} {crc : Half} (hlength : len.toNat = d.length + 3)
    (hmin : 1 ≤ d.length) (hcrc : crcOf (len :: d) ≠ crc) :
    parseResponse (len :: (d ++ low crc :: high crc :: padding)) = respCrcMismatch 0 := by
  have hlen : respLenValid len (len :: (d ++ low crc :: high crc :: padding)) = true :=
    respLenValid_iff.mpr ⟨by omega, by simp; omega⟩
  have hinvalid : ¬ respCrcValid len (len :: (d ++ low crc :: high crc :: padding)) = true := by
    rw [respCrcValid_iff hlen]
    rintro ⟨hlow, hhigh⟩
    have hsentLow : low crc = low (crcOf (len :: d)) := by simpa [hlength] using hlow
    have hsentHigh : high crc = high (crcOf (len :: d)) := by simpa [hlength] using hhigh
    rw [← half_low_high (crcOf (len :: d)), ← hsentLow, ← hsentHigh, half_low_high] at hcrc
    exact hcrc rfl
  rw [parseResponse, if_pos hlen, if_neg hinvalid]

end Sys2Proof.Machine
end

section
/-! The statements about the CRC unit, and the response with one corrupted data byte. -/

namespace Sys2Proof.Proofs

open Sys2Proof.Machine Sys2Proof.Spec

/-- Settles O3: the reversed byte in the top of the register holds the data bits in the order in which the bit-serial form
takes them. -/
theorem crcStepIsTheBitSerialForm : Obligations.CrcStepIsTheBitSerialForm := by
  intro c b
  have hserial := crcShifts_xor_eq_foldl_serialShift 8 c (reversedOnTop b) fun k hk => by
    rw [getMsbD_reversedOnTop, BitVec.getLsbD_of_ge b k hk]
  simp only [getMsbD_reversedOnTop] at hserial
  exact hserial

/-- Settles O4, by the range check. -/
theorem crc16AnswersTheCrcOfTheRange : Obligations.Crc16AnswersTheCrcOfTheRange := by
  intro s bytes offset length hquiet
  refine ⟨⟨[.bytes bytes, .nat offset, .nat length], rfl⟩, fun hrange => ?_, fun hrange => ?_⟩
  · have hexec : exec (.crc16 bytes offset length) s =
        .next (answered (respU16 (crc16 bytes offset length)) (runCrc bytes offset length s)) := by
      rw [← deliver_of_quiet (s := runCrc bytes offset length s) hquiet]
      exact congrArg _ (if_pos (rangeOk_iff.mpr hrange))
    rw [← crc16_eq_foldl]
    exact ⟨_, ⟨hexec, rfl, rfl, rfl, rfl, rfl, rfl, rfl⟩, rfl, rfl, rfl⟩
  · have hexec : exec (.crc16 bytes offset length) s = .next (answered respBadOperand s) := by
      rw [← deliver_of_quiet hquiet]
      exact congrArg _ (if_neg (mt rangeOk_iff.mp (Nat.not_le.mpr hrange)))
    exact ⟨_, ⟨hexec, rfl, rfl, rfl, rfl, rfl, rfl, rfl⟩, rfl, rfl, rfl⟩

/-- Settles O5. -/
theorem leadingZeroBytesNeverChangeACrc : Obligations.LeadingZeroBytesNeverChangeACrc := by
  refine ⟨rfl, fun n s => ?_⟩
  rw [crcOf, List.foldl_append]
  exact congrArg (s.foldl crcStep) (crcOf_replicate_zero n)

/-- Settles O6: the register starts from 0, which is 0 XOR 0. -/
theorem crcIsLinear : Obligations.CrcIsLinear := fun _ _ h => foldl_crcStep_xor h crcInit crcInit

/-- Settles O7. -/
theorem oneChangedByteChangesTheCrc : Obligations.OneChangedByteChangesTheCrc :=
  fun before after _ _ h => crcOf_changed_byte h before after

/-- Settles O13: the CRC that was sent is that of the bytes before the change. -/
theorem oneCorruptedDataByteIsACrcMismatch : Obligations.OneCorruptedDataByteIsACrcMismatch := by
  intro before after padding a b hab hmax
  have hlength : (BitVec.ofNat 8 ((before ++ a :: after).length + 3)).toNat = (before ++ b :: after).length + 3 := by
    rw [BitVec.toNat_ofNat, Nat.mod_eq_of_lt (by omega)]
    simp
  have hcrc := crcOf_changed_byte hab.symm (BitVec.ofNat 8 ((before ++ a :: after).length + 3) :: before) after
  simpa [responseOf, respCrcMismatch, raised] using
    parseResponse_wrongCrc (padding := padding) hlength (by simp; omega) hcrc

/-- Settles O1. -/
theorem rev8ReversesTheBitsOfAByte : Obligations.Rev8ReversesTheBitsOfAByte :=
  ⟨fun b => ⟨fun i => getLsbD_rev8 b i.isLt, rfl, rev8_rev8 b⟩, by decide⟩

/-- Settles O2. -/
theorem crcStepFollowsItsPseudocode : Obligations.CrcStepFollowsItsPseudocode :=
  fun c b => crcShifts_eq_foldl 8 (c ^^^ reversedOnTop b)

/-- Settles O8: the range of each checksum is the whole image. -/
theorem lockChecksumsCoverTheWholeImages : Obligations.LockChecksumsCoverTheWholeImages := by
  refine ⟨fun keys otp hkeys hotp hkey hblock => ?_, fun image h => crc16_whole h⟩
  have hlength : (keys.flatten ++ otp.flatten).length = 576 := by
    rw [List.length_append, length_flatten_of_forall hkey, length_flatten_of_forall hblock, hkeys, hotp]
  exact ⟨hlength, crc16_whole hlength⟩

end Sys2Proof.Proofs
end

section
/-! SUPPORT. From what `exec` answers to what the statements call its end: a response delivered with no arrival (R170),
`BadOperand` before any other effect (R174), and the frame of a SEND whose checks pass (R100, R104). -/

namespace Sys2Proof.Machine

open Sys2Proof.Spec

/-- The frame FRAME builds is that of R66: its CRC is over the bytes from the count byte on. -/
theorem frameBytes_eq_frameOf (opcode param1 : Byte) (param2 : Half) (payload : Bytes) :
    frameBytes opcode param1 param2 payload = frameOf opcode param1 param2 payload := by
  rw [frameBytes, frameCrc_eq]
  rfl

section
variable {i : Instr} {s : State} {opcode param1 : Byte} {param2 : Half} {payload : Bytes} {n : Nat} {dataLen : Option Nat}

/-- With no arrival, an instruction that delivers a response after writing working registers ends with it. -/
theorem ends_of_deliver {r : Response} {u : State} (hquiet : quiet s.inputs = true) (h : exec i s = .next (deliver r u))
    (same : SameOutside s u) : Ends i s (answered r u) r := by
  obtain ⟨hparams, hinputs, hdelivered, hwire, hfree⟩ := same
  rw [deliver_of_quiet (hinputs ▸ hquiet)] at h
  exact ⟨h, congrArg (· ++ [r]) hdelivered, rfl, rfl, hparams, hinputs, hwire, hfree⟩

/-- With no arrival, `BadOperand` delivered from the state itself is a refusal. -/
theorem refuses_of_deliver (hquiet : quiet s.inputs = true) (h : exec i s = .next (deliver respBadOperand s)) :
    Refuses i s :=
  ⟨_, ends_of_deliver hquiet h (.refl s), rfl, rfl, rfl⟩

/-- A SEND whose `expected_response_len` is legal and whose frame fits runs that frame. -/
theorem runsFrame_of_sendFrame (h : exec i s = .next (sendFrame opcode param1 param2 payload n dataLen s))
    (hlen : respLenOk n = true) (hfits : frameFits s.params payload = true) :
    RunsFrame i (frameOf opcode param1 param2 payload) n dataLen s := by
  rw [sendFrame, if_pos hlen, if_pos hfits] at h
  exact Transmits.runsFrame ⟨h, ⟨rfl, rfl, rfl, rfl, rfl⟩, rfl, frameBytes_eq_frameOf .., rfl, rfl⟩

/-- A SEND with an illegal `expected_response_len`, or whose frame does not fit, is refused. -/
theorem refuses_of_sendFrame (hquiet : quiet s.inputs = true)
    (h : exec i s = .next (sendFrame opcode param1 param2 payload n dataLen s))
    (hbad : ¬ (respLenOk n = true ∧ frameFits s.params payload = true)) : Refuses i s := by
  rw [sendFrame, ← ite_and, if_neg hbad] at h
  exact refuses_of_deliver hquiet h

end

/-- SEND runs its frame when its operands lie in the domain of R104. -/
theorem runsFrame_send {s : State} {payload : Bytes} {n : Nat} (hmin : 4 ≤ n) (hmax : n ≤ 255)
    (hfits : 8 + payload.length ≤ s.params.frameMax) (opcode param1 : Byte) (param2 : Half) :
    RunsFrame (.send opcode param1 param2 payload n) (frameOf opcode param1 param2 payload) n none s :=
  runsFrame_of_sendFrame rfl (respLenOk_iff.mpr ⟨hmin, hmax⟩) (frameFits_iff.mpr hfits)

end Sys2Proof.Machine
end

section
/-! The statements about FRAME, PARSE and SEND. -/

namespace Sys2Proof.Proofs

open Sys2Proof.Machine Sys2Proof.Spec

/-- Settles O9, by the check of the payload against `FRAME_MAX`. -/
theorem frameAnswersTheFrame : Obligations.FrameAnswersTheFrame := by
  intro s opcode param1 param2 payload hquiet
  refine ⟨⟨[.u8 opcode, .u8 param1, .u16 param2, .bytes payload], rfl⟩, fun hfits => ?_, fun hlong => ?_⟩
  · have hexec : exec (.frame opcode param1 param2 payload) s =
        .next (deliver (respOk (frameBytes opcode param1 param2 payload)) (loadFrame opcode param1 param2 payload s)) :=
      congrArg _ (if_pos (frameFits_iff.mpr hfits))
    rw [← frameBytes_eq_frameOf]
    exact ⟨_, ends_of_deliver hquiet hexec ⟨rfl, rfl, rfl, rfl, rfl⟩, rfl, rfl⟩
  · exact refuses_of_deliver hquiet (congrArg _ (if_neg (mt frameFits_iff.mp (Nat.not_le.mpr hlong))))

/-- Settles O11: the checks are those of R102, and they write nothing but the CRC unit. -/
theorem parseChecksLengthThenCrcThenEnvelope : Obligations.ParseChecksLengthThenCrcThenEnvelope := by
  intro s rx hquiet
  rw [← parseResponse_eq_parseOutcome]
  obtain ⟨hparams, hinputs, hdelivered, hwire, hfree⟩ :=
    parseCrc_sameOutside rx { s with codec := { s.codec with rx := rx } }
  exact ⟨⟨[.bytes rx], rfl⟩, _, ends_of_deliver hquiet rfl ⟨hparams, hinputs, hdelivered, hwire, hfree⟩,
    parseCrc_codec rx _, parseCrc_hashUnit rx _⟩

/-- Settles O14, by the two checks of R104 before the frame is written. -/
theorem sendWritesOnceAndPollsUntilBytes : Obligations.SendWritesOnceAndPollsUntilBytes := by
  intro s opcode param1 param2 payload n
  refine ⟨⟨[.u8 opcode, .u8 param1, .u16 param2, .bytes payload, .nat n], rfl⟩,
    fun hmin hmax hfits => runsFrame_send hmin hmax hfits opcode param1 param2, fun hquiet hbad => ?_⟩
  refine refuses_of_sendFrame hquiet rfl ?_
  rw [respLenOk_iff, frameFits_iff]
  omega

/-- Settles O15: two of the three ways in which SEND runs its frame. -/
theorem sendFailsAfterExactlyPollMaxReads : Obligations.SendFailsAfterExactlyPollMaxReads := by
  intro s opcode param1 param2 payload n rest hmin hmax hfits hquiet
  have hruns := runsFrame_send hmin hmax hfits opcode param1 param2
  refine ⟨fun hin => ?_, fun hin => ?_⟩
  · obtain ⟨t, ht⟩ := hruns.everyReadNack rest hquiet hin
    exact ⟨t, ht.next, ht.delivered, ht.wire⟩
  · obtain ⟨t, ht⟩ := hruns.writeNack rest hquiet hin
    exact ⟨t, ht.next, ht.delivered, ht.wire⟩

end Sys2Proof.Proofs
end

section
/-! SUPPORT. The domain of each `CMD.*` as its rule states it (R73 to R80, R122 to R128), and the parameters of the frame
it sends, written out. -/

namespace Sys2Proof

open Sys2Proof.Spec

section
variable {p : Params} {zone : Byte} {block offset slot : Nat}

theorem zoneOk_iff : zoneOk p zone = true ↔ namesZone p zone := by
  rw [zoneOk, Option.isSome_iff_ne_none, Ne, zoneOfCode_eq_none_iff, namesZone]
  tauto

theorem exists_zoneOfCode (h : namesZone p zone) : ∃ z, zoneOfCode p zone = some z :=
  Option.isSome_iff_exists.mp (zoneOk_iff.mpr h)

/-! ## The operands each rule asks for -/

theorem wellFormed_cmdRead_iff {fourByte : Bool} : wellFormed p (.cmdRead zone block offset fourByte) = true ↔
    namesZone p zone ∧ 8 * block + offset < 65536 ∧ 8 ≤ p.frameMax := by
  simp only [wellFormed, Bool.and_eq_true, zoneOk_iff, locationFits_iff, frameFits_iff, List.length_nil, and_assoc]

theorem wellFormed_cmdWrite_iff {data : Bytes} {mac : Option Bytes} {encrypted : Bool} :
    wellFormed p (.cmdWrite zone block offset data mac encrypted) = true ↔
      namesZone p zone ∧ 8 * block + offset < 65536 ∧ (data.length = 4 ∨ data.length = 32) ∧
        (∀ m ∈ mac, m.length = 32) ∧ 8 + (data ++ mac.getD []).length ≤ p.frameMax := by
  simp only [wellFormed, Bool.and_eq_true, zoneOk_iff, writeDataOk_iff, writeMacOk_iff, locationFits_iff, frameFits_iff,
    writePayload]
  tauto

theorem wellFormed_cmdNonce_iff {mode : Byte} {input : Bytes} : wellFormed p (.cmdNonce mode input) = true ↔
    input.length ≤ (if mode = 0x03 then 32 else 20) ∧ 8 + input.length ≤ p.frameMax := by
  rw [wellFormed, Bool.and_eq_true, decide_eq_true_eq, nonceInputMax_eq, frameFits_iff]

theorem wellFormed_cmdGendig_iff {extra : Bytes} : wellFormed p (.cmdGendig zone slot extra) = true ↔
    namesZone p zone ∧ slot ≤ 15 ∧ 8 + extra.length ≤ p.frameMax := by
  simp only [wellFormed, Bool.and_eq_true, zoneOk_iff, slotOk_iff, frameFits_iff, and_assoc]

theorem wellFormed_cmdMac_iff {challenge : Bytes} {flags : Byte} :
    wellFormed p (.cmdMac slot challenge flags) = true ↔
      slot ≤ 15 ∧ (challenge.length = 0 ∨ challenge.length = 32) ∧ 8 + challenge.length ≤ p.frameMax := by
  simp only [wellFormed, Bool.and_eq_true, slotOk_iff, macChallengeOk_iff, frameFits_iff, and_assoc]

/-- The payload of CMD.CHECKMAC has 77 bytes, its frame 85 (R127). -/
theorem wellFormed_cmdCheckmac_iff {challenge response otherData : Bytes} {flags : Byte} :
    wellFormed p (.cmdCheckmac slot challenge response otherData flags) = true ↔
      slot ≤ 15 ∧ challenge.length = 32 ∧ response.length = 32 ∧ otherData.length = 13 ∧ 85 ≤ p.frameMax := by
  simp only [wellFormed, Bool.and_eq_true, slotOk_iff, lenOk_iff, frameFits_iff, otherDataLen, List.length_append]
  omega

theorem wellFormed_cmdLock_iff {isData skipChecksum : Bool} {checksum : Half} :
    wellFormed p (.cmdLock isData checksum skipChecksum) = true ↔ 8 ≤ p.frameMax := frameFits_iff

/-! ## The parameters of its frame -/

theorem locationParam_eq (block offset : Nat) : locationParam block offset = BitVec.ofNat 16 (8 * block + offset) := by
  rw [locationParam, location_eq]

theorem readParam1_eq {z : Zone} (hz : zoneOfCode p zone = some z) (fourByte : Bool) :
    readParam1 p z fourByte = zone ||| (if fourByte then 0x00 else 0x80) := by
  rw [readParam1, zoneCode_of_zoneOfCode hz]
  cases fourByte <;> rfl

theorem writeParam1_eq {z : Zone} (hz : zoneOfCode p zone = some z) (data : Bytes) (encrypted : Bool) :
    writeParam1 p z data encrypted =
      zone ||| (if data.length = 32 then 0x80 else 0x00) ||| (if encrypted then p.wrEncFlag else 0x00) := by
  simp only [writeParam1, zoneCode_of_zoneOfCode hz, sizeBit, flagIf, decide_eq_true_eq]

end

end Sys2Proof

namespace Sys2Proof.Machine

open Sys2Proof.Spec

section
variable {i : Instr} {s : State} {opcode param1 : Byte} {param2 : Half} {payload : Bytes} {dataLen : Nat}

/-- A `CMD.*` whose checks pass and whose frame fits runs that frame, with reads of 38 bytes (R120). -/
theorem runsFrame_of_sendCommand (h : exec i s = .next (sendCommand opcode param1 param2 payload dataLen s))
    (hfits : 8 + payload.length ≤ s.params.frameMax) :
    RunsFrame i (frameOf opcode param1 param2 payload) 38 (some dataLen) s :=
  runsFrame_of_sendFrame h rfl (frameFits_iff.mpr hfits)

/-- A `CMD.*` whose check fails, or whose frame does not fit, is refused. -/
theorem refuses_of_check {ok : Prop} [Decidable ok] (hquiet : quiet s.inputs = true)
    (h : exec i s =
      .next (if ok then sendCommand opcode param1 param2 payload dataLen s else deliver respBadOperand s))
    (hbad : ¬ (ok ∧ frameFits s.params payload = true)) : Refuses i s := by
  by_cases hok : ok
  · rw [if_pos hok] at h
    exact refuses_of_sendFrame hquiet h fun hsend => hbad ⟨hok, hsend.2⟩
  · rw [if_neg hok] at h
    exact refuses_of_deliver hquiet h

/-- A `CMD.*` with a zone operand is refused where its code names no zone too (R73). -/
theorem refuses_of_zone_check {zone : Byte} {zoneParam1 : Zone → Byte} {ok : Prop} [Decidable ok]
    (hquiet : quiet s.inputs = true)
    (hnone : zoneOfCode s.params zone = none → exec i s = .next (deliver respBadOperand s))
    (hsome : ∀ z, zoneOfCode s.params zone = some z → exec i s =
      .next (if ok then sendCommand opcode (zoneParam1 z) param2 payload dataLen s else deliver respBadOperand s))
    (hbad : ¬ (zoneOk s.params zone = true ∧ ok ∧ frameFits s.params payload = true)) : Refuses i s := by
  cases hz : zoneOfCode s.params zone with
  | none => exact refuses_of_deliver hquiet (hnone hz)
  | some z =>
    have hzone : zoneOk s.params zone = true := Option.isSome_iff_exists.mpr ⟨z, hz⟩
    exact refuses_of_check hquiet (hsome z hz) fun hsend => hbad ⟨hzone, hsend⟩

end

/-- A SEND or `CMD.*` with an operand outside its domain is refused, before anything is sent (R174). -/
theorem refuses_of_not_wellFormed {i : Instr} {s : State} (hquiet : quiet s.inputs = true) (hi : isCommand i = true)
    (hbad : ¬ wellFormed s.params i = true) : Refuses i s := by
  cases i with
  | send c p1 p2 pl n => exact refuses_of_sendFrame hquiet rfl (mt Bool.and_eq_true_iff.mpr hbad)
  | cmdRead zone block offset fourByte =>
    exact refuses_of_zone_check (zone := zone) hquiet (fun hz => by simp only [exec, execCmdRead, hz])
      (fun z hz => by simp only [exec, execCmdRead, hz]; rfl) (by simpa [wellFormed, and_assoc] using hbad)
  | cmdWrite zone block offset data mac encrypted =>
    exact refuses_of_zone_check (zone := zone) hquiet (fun hz => by simp only [exec, execCmdWrite, hz])
      (fun z hz => by simp only [exec, execCmdWrite, hz]; rfl) (by simpa [wellFormed, and_assoc] using hbad)
  | cmdNonce mode input => exact refuses_of_check hquiet rfl (by simpa [wellFormed] using hbad)
  | cmdGendig zone slot extra =>
    exact refuses_of_zone_check (zone := zone) hquiet (fun hz => by simp only [exec, execCmdGendig, hz])
      (fun z hz => by simp only [exec, execCmdGendig, hz]; rfl) (by simpa [wellFormed, and_assoc] using hbad)
  | cmdMac slot challenge flags => exact refuses_of_check hquiet rfl (mt Bool.and_eq_true_iff.mpr hbad)
  | cmdCheckmac slot challenge response otherData flags =>
    exact refuses_of_check hquiet rfl (mt Bool.and_eq_true_iff.mpr hbad)
  | cmdLock isData checksum skipChecksum =>
    exact refuses_of_sendFrame hquiet rfl fun hsend => hbad hsend.2
  | _ => simp [isCommand] at hi

end Sys2Proof.Machine
end

section
/-! The statements about the chip command set, and that no step stops. -/

namespace Sys2Proof.Proofs

open Sys2Proof.Machine Sys2Proof.Spec

/-- Settles O17, by the zone and the location R122 checks. -/
theorem cmdReadSendsItsFrame : Obligations.CmdReadSendsItsFrame := by
  intro s zone block offset fourByte
  refine ⟨⟨[.u8 zone, .nat block, .nat offset, .bool fourByte], rfl⟩, fun hzone hloc hfits => ?_, fun hquiet hbad => ?_⟩
  · obtain ⟨z, hz⟩ := exists_zoneOfCode hzone
    rw [← readParam1_eq hz, ← locationParam_eq]
    exact runsFrame_of_sendCommand (exec_cmdRead hz (locationFits_iff.mpr hloc) fourByte) hfits
  · refine refuses_of_not_wellFormed hquiet rfl (mt wellFormed_cmdRead_iff.mp ?_)
    simpa only [not_and_or, not_lt, not_le] using hbad

/-- Settles O18, by the checks of R123; the payload is the data, then the MAC. -/
theorem cmdWriteSendsItsFrame : Obligations.CmdWriteSendsItsFrame := by
  intro s zone block offset data mac encrypted
  refine ⟨⟨[.u8 zone, .nat block, .nat offset, .bytes data, macOperand mac, .bool encrypted], by cases mac <;> rfl⟩,
    fun hzone hloc hdata hmac hfits => ?_, fun hquiet hbad => ?_⟩
  · obtain ⟨z, hz⟩ := exists_zoneOfCode hzone
    rw [← writeParam1_eq hz, ← locationParam_eq]
    exact runsFrame_of_sendCommand (exec_cmdWrite hz (writeDataOk_iff.mpr hdata) (writeMacOk_iff.mpr hmac)
      (locationFits_iff.mpr hloc) encrypted) hfits
  · refine refuses_of_not_wellFormed hquiet rfl (mt wellFormed_cmdWrite_iff.mp ?_)
    simpa only [not_and_or, not_or, not_forall, exists_prop, not_lt, not_le] using hbad

/-- Settles O19: the mode tells the limit of the input and the data length expected. -/
theorem cmdNonceSendsItsFrame : Obligations.CmdNonceSendsItsFrame := by
  intro s mode input
  refine ⟨⟨[.u8 mode, .bytes input], rfl⟩, fun hinput hfits => ?_, fun hquiet hbad => ?_⟩
  · exact runsFrame_of_sendCommand (exec_cmdNonce hinput) hfits
  · refine refuses_of_not_wellFormed hquiet rfl (mt wellFormed_cmdNonce_iff.mp ?_)
    simpa only [not_and_or, not_le] using hbad

/-- Settles O20, by the zone and the slot R125 checks. -/
theorem cmdGendigSendsItsFrame : Obligations.CmdGendigSendsItsFrame := by
  intro s zone slot extra
  refine ⟨⟨[.u8 zone, .nat slot, .bytes extra], rfl⟩, fun hzone hslot hfits => ?_, fun hquiet hbad => ?_⟩
  · exact runsFrame_of_sendCommand (exec_cmdGendig (zoneOk_iff.mpr hzone) (slotOk_iff.mpr hslot) extra) hfits
  · refine refuses_of_not_wellFormed hquiet rfl (mt wellFormed_cmdGendig_iff.mp ?_)
    simpa only [not_and_or, not_le] using hbad

/-- Settles O21, by the slot and the challenge R126 checks. -/
theorem cmdMacSendsItsFrame : Obligations.CmdMacSendsItsFrame := by
  intro s slot challenge flags
  refine ⟨⟨[.nat slot, .bytes challenge, .u8 flags], rfl⟩, fun hslot hchallenge hfits => ?_, fun hquiet hbad => ?_⟩
  · exact runsFrame_of_sendCommand (exec_cmdMac (slotOk_iff.mpr hslot) (macChallengeOk_iff.mpr hchallenge) flags) hfits
  · refine refuses_of_not_wellFormed hquiet rfl (mt wellFormed_cmdMac_iff.mp ?_)
    simpa only [not_and_or, not_or, not_le] using hbad

/-- Settles O22: with operands of the lengths R127 states, the frame has 85 bytes. -/
theorem cmdCheckmacSendsItsFrame : Obligations.CmdCheckmacSendsItsFrame := by
  intro s slot challenge response otherData flags
  refine ⟨⟨[.nat slot, .bytes challenge, .bytes response, .bytes otherData, .u8 flags], rfl⟩,
    fun hslot hchallenge hresponse hother hframe => ?_, fun hquiet hbad => ?_⟩
  · have hfits : 8 + (challenge ++ response ++ otherData).length ≤ s.params.frameMax := by
      simp only [List.length_append]
      omega
    exact runsFrame_of_sendCommand (exec_cmdCheckmac (slotOk_iff.mpr hslot) (lenOk_iff.mpr hchallenge)
      (lenOk_iff.mpr hresponse) (lenOk_iff.mpr hother) flags) hfits
  · refine refuses_of_not_wellFormed hquiet rfl (mt wellFormed_cmdCheckmac_iff.mp ?_)
    simpa only [not_and_or, not_le] using hbad

/-- Settles O23: CMD.LOCK checks no operand, only that its 8-byte frame fits. -/
theorem cmdLockSendsItsFrame : Obligations.CmdLockSendsItsFrame := by
  intro s isData checksum skipChecksum
  refine ⟨⟨[.bool isData, .u16 checksum, .bool skipChecksum], rfl⟩, fun hfits => ?_, fun hquiet hshort => ?_⟩
  · exact runsFrame_of_sendCommand rfl hfits
  · exact refuses_of_not_wellFormed hquiet rfl (mt wellFormed_cmdLock_iff.mp (Nat.not_le.mpr hshort))

/-- Settles O52: a step runs an instruction, which answers a next state, or is done without one. -/
theorem everyStepAnswersNext : Obligations.EveryStepAnswersNext := by
  intro s
  rw [step_eq_outcome]
  cases fetch s with
  | run i u =>
    obtain ⟨t, ht, -⟩ := exec_runs i u
    exact ⟨t, ht⟩
  | done t => exact ⟨t, rfl⟩

end Sys2Proof.Proofs
end

section
/-! SUPPORT. SHA-256 in the order in which R140 to R143 count: the padding in whole blocks, the schedule word by word, the
64 rounds, the blocks of the padded message. -/

namespace Sys2Proof

/-! ## The padding -/

theorem pad_length (m : Bytes) : (pad m).length = 64 * blockCount m.length := by
  rw [(Machine.blockCount_spec m.length).2]
  simp [pad]
  omega

theorem be64_getD (v : Nat) {i : Nat} (hi : i < 8) : (be64 v).getD i 0x00 = BitVec.ofNat 8 (v / 256 ^ (7 - i)) := by
  interval_cases i <;> simp [be64, Nat.shiftRight_eq_div_pow]

theorem padZeros_fills (l : Nat) : (l + 1 + padZeros l + 8) % 64 = 0 := by
  unfold padZeros
  omega

theorem padZeros_le {l k : Nat} (h : (l + 1 + k + 8) % 64 = 0) : padZeros l ≤ k := by
  unfold padZeros
  omega

/-! ## The schedule -/

/-- The word reader of R142 takes four bytes a word. -/
theorem wordsBE_getD : ∀ {t : Nat} {bs : Bytes}, 4 * t + 4 ≤ bs.length →
    (wordsBE bs).getD t 0 =
      bs.getD (4 * t) 0x00 ++ bs.getD (4 * t + 1) 0x00 ++ bs.getD (4 * t + 2) 0x00 ++ bs.getD (4 * t + 3) 0x00
  | 0, _ :: _ :: _ :: _ :: _, _ => rfl
  | t + 1, _ :: _ :: _ :: _ :: rest, h => wordsBE_getD (t := t) (bs := rest) (by simp at h; omega)
  | _, [], h | _, [_], h | _, [_, _], h | _, [_, _, _], h => by simp at h

/-- The word put last is the one the recurrence makes of the words before it. -/
theorem scheduleMore_succ (n : Nat) (ws : List Word) :
    scheduleMore (n + 1) ws = scheduleNext (scheduleMore n ws) :: scheduleMore n ws := by
  induction n generalizing ws with
  | zero => rfl
  | succ n ih => exact ih _

theorem scheduleMore_suffix {m n : Nat} (h : m ≤ n) (ws : List Word) : scheduleMore m ws <:+ scheduleMore n ws := by
  induction h with
  | refl => exact List.suffix_rfl
  | step _ ih => exact scheduleMore_succ _ ws ▸ ih.trans (List.suffix_cons _ _)

/-- The words made so far are the first of the schedule, newest first: position `j` of the first `m + 16` words is
`W[m + 15 - j]`. -/
theorem scheduleMore_getD {block : Bytes} (h : block.length = 64) {m j : Nat} (hm : m ≤ 48) (hj : j < m + 16) :
    (scheduleMore m (wordsBE block).reverse).getD j 0 = (schedule block).getD (m + 16 - (j + 1)) 0 := by
  obtain ⟨later, hlater⟩ := scheduleMore_suffix hm (wordsBE block).reverse
  have hlength : (scheduleMore m (wordsBE block).reverse).length = m + 16 := by
    rw [Machine.scheduleMore_length, List.length_reverse, Machine.wordsBE_length 16 block h, Nat.add_comm]
  rw [schedule, ← hlater, List.reverse_append, List.getD_append _ _ _ _ (by simp; omega), List.getD_reverse _ (by omega),
    hlength]
  congr 1
  omega

theorem schedule_getD_of_lt {block : Bytes} (h : block.length = 64) {t : Nat} (ht : t < 16) :
    (schedule block).getD t 0 = (wordsBE block).getD t 0 := by
  have hwords := Machine.wordsBE_length 16 block h
  have hfirst := scheduleMore_getD h (Nat.zero_le 48) (j := 15 - t) (by omega)
  rw [scheduleMore, List.getD_reverse _ (by omega), hwords] at hfirst
  convert hfirst.symm using 2 <;> omega

/-- The recurrence of the schedule. -/
theorem schedule_getD_of_le {block : Bytes} (h : block.length = 64) {t : Nat} (hmin : 16 ≤ t) (hmax : t < 64) :
    (schedule block).getD t 0 = (schedule block).getD (t - 16) 0 + scheduleS0 ((schedule block).getD (t - 15) 0) +
      (schedule block).getD (t - 7) 0 + scheduleS1 ((schedule block).getD (t - 2) 0) := by
  obtain ⟨n, rfl⟩ := Nat.exists_eq_add_of_le' hmin
  have hnext := scheduleMore_getD h (m := n + 1) (j := 0) (by omega) (by omega)
  have hbefore {j : Nat} (hj : j < 16) := scheduleMore_getD h (m := n) (j := j) (by omega) (by omega)
  rw [scheduleMore_succ, List.getD_cons_zero, scheduleNext, hbefore (j := 15) (by decide), hbefore (j := 14) (by decide),
    hbefore (j := 6) (by decide), hbefore (j := 1) (by decide)] at hnext
  exact hnext.symm

/-! ## The rounds and the blocks -/

/-- The rounds over constants and words of the same number, counted. -/
theorem hashRounds_eq_foldl {ks ws : List Word} {n : Nat} (hk : ks.length = n) (hw : ws.length = n) (v : Eight) :
    hashRounds v ks ws = (List.range n).foldl (fun v t => Spec.roundOf v (ks.getD t 0) (ws.getD t 0)) v := by
  induction n generalizing ks ws v with
  | zero => rw [List.length_eq_zero_iff.mp hk]; rfl
  | succ n ih =>
    obtain ⟨k, ks, rfl⟩ := List.exists_cons_of_length_eq_add_one hk
    obtain ⟨w, ws, rfl⟩ := List.exists_cons_of_length_eq_add_one hw
    rw [List.range_succ_eq_map, List.foldl_cons, List.foldl_map]
    exact ih (Nat.succ.inj hk) (Nat.succ.inj hw) _

theorem blockAt_eq (m : Bytes) (j : Nat) : blockAt m j = (m.drop (64 * j)).take 64 := by
  rw [blockAt, slice, List.drop_take, Nat.add_sub_cancel_left]

theorem chain_eq_foldl (m : Bytes) (n : Nat) :
    chain m n = (List.range n).foldl (fun h j => compress h ((m.drop (64 * j)).take 64)) hashInit := by
  induction n with
  | zero => rfl
  | succ n ih => rw [chain, ih, blockAt_eq, List.range_succ, List.foldl_append]; rfl

end Sys2Proof
end

section
/-! The statements about SHA-256. -/

namespace Sys2Proof.Proofs

open Sys2Proof.Machine Sys2Proof.Spec

/-- Settles O24: what follows the zeros is the 64-bit length. -/
theorem paddingIsTheShortestToWholeBlocks : Obligations.PaddingIsTheShortestToWholeBlocks :=
  ⟨fun msg => ⟨be64 (8 * msg.length), rfl, be64_length _, fun _ hi => be64_getD _ hi, pad_length msg⟩,
    fun l => ⟨padZeros_fills l, fun _ h => padZeros_le h⟩⟩

/-- Settles O25. -/
theorem compressionFollowsItsPseudocode : Obligations.CompressionFollowsItsPseudocode := by
  intro h block hblock
  refine ⟨schedule_length hblock, fun t ht => ?_, fun t hmin hmax => schedule_getD_of_le hblock hmin hmax, ?_⟩
  · rw [schedule_getD_of_lt hblock ht, wordsBE_getD (by omega)]
  · exact congrArg (addEight h) (hashRounds_eq_foldl (n := 64) rfl (schedule_length hblock) h)

/-- Settles O26: an operand of fewer than 2^61 bytes is hashed, with `MSG` left alone. -/
theorem sha256AnswersTheDigest : Obligations.Sha256AnswersTheDigest := by
  intro s msg hquiet hlength
  have hexec : exec (.sha256 msg) s = .next (deliver (respOk (sha256 msg)) (runHashOperand msg s)) :=
    congrArg _ (if_pos (decide_eq_true hlength))
  refine ⟨⟨[.bytes msg], rfl⟩, _, ends_of_deliver hquiet hexec ⟨rfl, rfl, rfl, rfl, rfl⟩, sha256_length msg, ?_,
    rfl, rfl, rfl, rfl⟩
  exact congrArg digestOf (chain_eq_foldl (pad msg) (blockCount msg.length))

/-- Settles O27, by running the model on the two messages (V-SHA-1, V-SHA-2). -/
theorem sha256GivesTheStandardAnswers : Obligations.Sha256GivesTheStandardAnswers :=
  ⟨by decide +kernel, by decide +kernel, rfl, rfl, rfl, rfl, rfl⟩

end Sys2Proof.Proofs
end

section
/-! SUPPORT. The messages of the key and MAC chains byte by byte (R151 to R159), the interleaving of other-data (R158),
the byte-wise XOR (R154), and the domain of each operation. -/

namespace Sys2Proof

/-! ## The messages -/

theorem low_ofNat (n : Nat) : low (BitVec.ofNat 16 n) = BitVec.ofNat 8 n := by
  apply BitVec.eq_of_toNat_eq
  simp [low, BitVec.extractLsb'_toNat]

theorem high_ofNat (n : Nat) : high (BitVec.ofNat 16 n) = BitVec.ofNat 8 (n / 256) := by
  apply BitVec.eq_of_toNat_eq
  simp [high, BitVec.extractLsb'_toNat, Nat.shiftRight_eq_div_pow]
  omega

theorem derivekeyMsg_eq (rootKey : Bytes) (targetSlot : Nat) (serial : Bytes) :
    derivekeyMsg rootKey targetSlot serial =
      rootKey ++ [0x1C, 0x04, BitVec.ofNat 8 targetSlot, BitVec.ofNat 8 (targetSlot / 256)] ++ [0xEE, 0x01, 0x23] ++
        List.replicate 25 0x00 ++ serial ++ List.replicate 23 0x00 := by
  rw [derivekeyMsg, low_ofNat, high_ofNat]
  rfl

/-- A slot of VALIDATE fits the low byte of the target slot (R159). -/
theorem derivekeyMsg_of_slot {slot : Nat} (h : slot ≤ 15) (rootKey serial : Bytes) :
    derivekeyMsg rootKey slot serial =
      rootKey ++ [0x1C, 0x04, BitVec.ofNat 8 slot, 0x00] ++ [0xEE, 0x01, 0x23] ++
        List.replicate 25 0x00 ++ serial ++ List.replicate 23 0x00 := by
  rw [derivekeyMsg_eq, Nat.div_eq_of_lt (by omega)]
  rfl

theorem derivekeyMsg_length {rootKey serial : Bytes} (hroot : rootKey.length = 32) (hserial : serial.length = 9)
    (targetSlot : Nat) : (derivekeyMsg rootKey targetSlot serial).length = 96 := by
  simp [derivekeyMsg, hroot, hserial]

theorem sesskeyMsg_eq (slotKey : Bytes) (slot : Nat) (serial chipNonce : Bytes) :
    sesskeyMsg slotKey slot serial chipNonce =
      slotKey ++
        [0x15, 0x02, BitVec.ofNat 8 slot, 0x00, serial.getD 8 0x00, serial.getD 0 0x00, serial.getD 1 0x00] ++
        List.replicate 25 0x00 ++ chipNonce := by
  rw [sesskeyMsg, slotParam, low_ofNat, List.append_assoc slotKey]
  rfl

theorem sesskeyMsg_length {slotKey chipNonce : Bytes} (hkey : slotKey.length = 32) (hnonce : chipNonce.length = 32)
    (slot : Nat) (serial : Bytes) : (sesskeyMsg slotKey slot serial chipNonce).length = 96 := by
  simp [sesskeyMsg, Machine.serialTail_length, hkey, hnonce]

/-- The address of a slot is one byte wide (R155). -/
theorem wrmacMsg_eq {slot : Nat} (h : slot ≤ 15) (sessionKey serial plaintext : Bytes) :
    wrmacMsg sessionKey slot serial plaintext =
      sessionKey ++
        [0x12, 0x82, BitVec.ofNat 8 (8 * slot), 0x00, serial.getD 8 0x00, serial.getD 0 0x00, serial.getD 1 0x00] ++
        List.replicate 25 0x00 ++ plaintext := by
  have haddr : slot <<< 3 = 8 * slot := by rw [Nat.shiftLeft_eq, Nat.mul_comm]
  rw [wrmacMsg, slotAddr, haddr, low_ofNat, high_ofNat, Nat.div_eq_of_lt (by omega), List.append_assoc sessionKey]
  rfl

theorem wrmacMsg_length {sessionKey plaintext : Bytes} (hkey : sessionKey.length = 32) (htext : plaintext.length = 32)
    (slot : Nat) (serial : Bytes) : (wrmacMsg sessionKey slot serial plaintext).length = 96 := by
  simp [wrmacMsg, Machine.serialTail_length, hkey, htext]

/-! ## Other-data -/

theorem interleave_append (l₁ l₂ : List OdPiece) (od : Bytes) :
    interleave (l₁ ++ l₂) od = interleave l₁ od ++ interleave l₂ od := List.map_append

/-- Pieces that name bytes in a row give that range of the other-data. -/
theorem interleave_consecutive {od : Bytes} {start n : Nat} (h : start + n ≤ od.length) :
    interleave ((List.range n).map fun i => .other (start + i)) od = (od.drop start).take n := by
  apply List.ext_getElem
  · simp [interleave]
    omega
  · intro i hi _
    have hin : start + i < od.length := by
      simp [interleave] at hi
      omega
    simp [interleave, odByte, hin]

/-- The default layout as runs of other-data bytes and the constants between them (R158). -/
theorem interleave_defaultOdLayout {od : Bytes} (h : od.length = 13) :
    interleave defaultOdLayout od =
      od.take 4 ++ List.replicate 8 0x00 ++ (od.drop 4).take 3 ++ [0xEE] ++ (od.drop 7).take 4 ++ [0x01, 0x23] ++
        (od.drop 11).take 2 := by
  have hruns : defaultOdLayout =
      (List.range 4).map (fun i => .other (0 + i)) ++ List.replicate 8 (.const 0x00) ++
        (List.range 3).map (fun i => .other (4 + i)) ++ [.const 0xEE] ++ (List.range 4).map (fun i => .other (7 + i)) ++
        [.const 0x01, .const 0x23] ++ (List.range 2).map (fun i => .other (11 + i)) := rfl
  rw [hruns]
  simp only [interleave_append]
  rw [interleave_consecutive (by omega), interleave_consecutive (by omega), interleave_consecutive (by omega),
    interleave_consecutive (by omega)]
  rfl

/-! ## The byte-wise XOR -/

theorem xorBytes_getD {a b : Bytes} (h : a.length = b.length) (i : Nat) :
    (xorBytes a b).getD i 0x00 = a.getD i 0x00 ^^^ b.getD i 0x00 := by
  by_cases hi : i < a.length
  · simp [xorBytes, hi, h ▸ hi]
  · simp [xorBytes, hi, h ▸ hi]

theorem xorBytes_xorBytes {p s : Bytes} (h : p.length = s.length) : xorBytes (xorBytes p s) s = p := by
  apply List.ext_getElem
  · simp [xorBytes_length, h]
  · intro i _ _
    simp [xorBytes]

theorem xorBytes_self (p : Bytes) : xorBytes p p = List.replicate p.length 0x00 := by
  apply List.ext_getElem
  · simp [xorBytes_length]
  · intro i _ _
    simp [xorBytes]

theorem xorBytes_zeros (p : Bytes) : xorBytes p (List.replicate p.length 0x00) = p := by
  apply List.ext_getElem
  · simp [xorBytes_length]
  · intro i _ _
    simp [xorBytes]

/-! ## The operands each rule asks for -/

section
variable {p : Params} {slot : Nat} {key serial : Bytes}

theorem wellFormed_derivekey_iff {targetSlot : Nat} : wellFormed p (.derivekey key targetSlot serial) = true ↔
    key.length = 32 ∧ targetSlot < 65536 ∧ serial.length = 9 := by
  simp only [wellFormed, Bool.and_eq_true, lenOk_iff, decide_eq_true_eq, keyLen, serialLen, and_assoc, Nat.reducePow]

theorem wellFormed_sesskey_iff {chipNonce : Bytes} : wellFormed p (.sesskey key slot serial chipNonce) = true ↔
    key.length = 32 ∧ slot ≤ 15 ∧ serial.length = 9 ∧ chipNonce.length = 32 := by
  simp only [wellFormed, Bool.and_eq_true, lenOk_iff, slotOk_iff, keyLen, serialLen, and_assoc]

theorem wellFormed_xor32_iff {a b : Bytes} : wellFormed p (.xor32 a b) = true ↔ a.length = 32 ∧ b.length = 32 := by
  simp only [wellFormed, Bool.and_eq_true, lenOk_iff]

/-- WRMAC checks its operands as SESSKEY does, the plaintext in the place of the chip nonce. -/
theorem wellFormed_wrmac_iff {plaintext : Bytes} : wellFormed p (.wrmac key slot serial plaintext) = true ↔
    key.length = 32 ∧ slot ≤ 15 ∧ serial.length = 9 ∧ plaintext.length = 32 :=
  wellFormed_sesskey_iff (p := p)

theorem wellFormed_macresp_iff {challenge otherData : Bytes} :
    wellFormed p (.macresp key challenge otherData) = true ↔
      key.length = 32 ∧ challenge.length = 32 ∧ otherData.length = 13 := by
  simp only [wellFormed, Bool.and_eq_true, lenOk_iff, keyLen, otherDataLen, and_assoc]

end

end Sys2Proof
end

section
/-! SUPPORT. How an operation of the hash unit ends with no arrival (R150, R174), and that a pure operation only writes
working registers and delivers its response (R183, R196). -/

namespace Sys2Proof.Machine

open Sys2Proof.Spec

/-! ## How an operation of the hash unit ends -/

section
variable {i : Instr} {s : State} {m : Bytes}

/-- With no arrival, hashing a message after writes to the hash unit alone answers its digest. -/
theorem answersHash_of_answerHash {u : HashUnit} (hquiet : quiet s.inputs = true)
    (h : exec i s = .next (answerHash m { s with hashUnit := u })) : AnswersHash i s m :=
  ⟨_, ends_of_deliver hquiet h ⟨rfl, rfl, rfl, rfl, rfl⟩, rfl, rfl, rfl, rfl⟩

/-- A chain operation whose operands pass its check answers the digest of its message (R150). -/
theorem answersHash_of_chainOperation {ok : Bool} (hquiet : quiet s.inputs = true)
    (h : exec i s = .next (chainOperation ok m s)) (hok : ok = true) : AnswersHash i s m :=
  answersHash_of_answerHash hquiet (h.trans (congrArg _ (if_pos hok)))

/-- With no arrival, bytes delivered from the state itself are the whole answer. -/
theorem answersBytes_of_deliver {b : Bytes} (hquiet : quiet s.inputs = true)
    (h : exec i s = .next (deliver (respOk b) s)) : AnswersBytes i s b :=
  ⟨_, ends_of_deliver hquiet h (.refl s), rfl, rfl, rfl⟩

/-- An operation of the hash unit with an operand outside its domain is refused, before any hash (R150, R174). -/
theorem refuses_of_hashing_not_wellFormed (hquiet : quiet s.inputs = true) (hi : isHashing i = true)
    (hbad : ¬ wellFormed s.params i = true) : Refuses i s := by
  cases i with
  | sha256 | derivekey | noncemix | sesskey | xor32 | wrmac | macresp | validate =>
    exact refuses_of_deliver hquiet (congrArg _ (if_neg hbad))
  | _ => simp [isHashing, isPure, isRequest, isCommand] at hi

end

/-- XOR32 of two 32-byte strings answers their byte-wise XOR (R154). -/
theorem answersBytes_xor32 {s : State} {a b : Bytes} (hquiet : quiet s.inputs = true) (ha : a.length = 32)
    (hb : b.length = 32) : AnswersBytes (.xor32 a b) s (xorBytes a b) :=
  answersBytes_of_deliver hquiet
    (congrArg _ (if_pos ((wellFormed_xor32_iff (p := s.params)).mpr ⟨ha, hb⟩)))

/-- The nonce mix of VALIDATE writes the hash unit at most. -/
theorem runNonceMix_eq (seed input : Bytes) (mode : Byte) (s : State) :
    ∃ u, runNonceMix seed input mode s = { s with hashUnit := u } := by
  unfold runNonceMix
  split <;> exact ⟨_, rfl⟩

theorem sequenceKey_length (k : Nat) (keyK serial : Bytes) (mode : Byte) (input r : Bytes) :
    (sequenceKey k keyK serial mode input r).length = 32 := sha256_length _

/-! ## Delivering a response touches nothing shared -/

@[simp] theorem deliver_params (r : Response) (s : State) : (deliver r s).params = s.params := by
  obtain ⟨-, h⟩ | ⟨-, h⟩ := deliver_cases r s <;> simp [h]

@[simp] theorem deliver_freeCount (r : Response) (s : State) : (deliver r s).freeCount = s.freeCount := by
  obtain ⟨-, h⟩ | ⟨-, h⟩ := deliver_cases r s <;> simp [h]

/-- A pure operation writes working registers and delivers its response: it makes no transport access. -/
theorem exec_pure {i : Instr} (hi : isPure i = true) (s : State) :
    ∃ r u, exec i s = .next (deliver r u) ∧ SameOutside s u := by
  obtain ⟨hrequest, hcommand⟩ := Bool.and_eq_true_iff.mp hi
  obtain hc | hh | ⟨b, o, l, rfl⟩ | ⟨c, p1, p2, pl, rfl⟩ | ⟨rx, rfl⟩ := request_cases hrequest
  · simp [hc] at hcommand
  · obtain ⟨r, g, -, hexec⟩ := exec_hashing s.params hh
    exact ⟨r, _, hexec s rfl, rfl, rfl, rfl, rfl, rfl⟩
  · by_cases hok : rangeOk b o l = true
    · exact ⟨_, _, congrArg _ (if_pos hok), rfl, rfl, rfl, rfl, rfl⟩
    · exact ⟨_, _, congrArg _ (if_neg hok), .refl s⟩
  · by_cases hok : frameFits s.params pl = true
    · exact ⟨_, _, congrArg _ (if_pos hok), rfl, rfl, rfl, rfl, rfl⟩
    · exact ⟨_, _, congrArg _ (if_neg hok), .refl s⟩
  · obtain ⟨hparams, hinputs, hdelivered, hwire, hfree⟩ :=
      parseCrc_sameOutside rx { s with codec := { s.codec with rx := rx } }
    exact ⟨_, _, rfl, hparams, hinputs, hdelivered, hwire, hfree⟩

end Sys2Proof.Machine
end

section
/-! The statements about the key and MAC chains, and that the pure operations touch nothing shared. -/

namespace Sys2Proof.Proofs

open Sys2Proof.Machine Sys2Proof.Spec

/-- Settles O28: operands of the domain of R151 are hashed in its layout. -/
theorem derivekeyHashesItsLayout : Obligations.DerivekeyHashesItsLayout := by
  intro s rootKey targetSlot serial hquiet
  refine ⟨⟨_, decodeRequest_opselOf (op := .derivekey) (operandsOf_derivekey rootKey serial targetSlot)⟩,
    fun hroot hslot hserial => ?_, fun hbad => ?_⟩
  · rw [← derivekeyMsg_eq]
    exact ⟨derivekeyMsg_length hroot hserial targetSlot,
      answersHash_of_chainOperation hquiet rfl
        ((wellFormed_derivekey_iff (p := s.params)).mpr ⟨hroot, hslot, hserial⟩)⟩
  · refine refuses_of_hashing_not_wellFormed hquiet rfl (mt wellFormed_derivekey_iff.mp ?_)
    simpa only [not_and_or, not_lt] using hbad

/-- Settles O29: the mode tells the limit of the input and whether it is hashed. -/
theorem noncemixHashesOrPassesThrough : Obligations.NoncemixHashesOrPassesThrough := by
  intro s nonceSeed input mode hquiet
  refine ⟨⟨[.bytes nonceSeed, .bytes input, .u8 mode], rfl⟩, fun hseed hmode hinput => ?_, fun hseed hmode hinput => ?_,
    fun hbad => ?_⟩
  · have hok : noncemixOk nonceSeed input mode = true := noncemixOk_iff.mpr ⟨hseed, by rwa [if_pos hmode]⟩
    exact answersBytes_of_deliver hquiet (congrArg _ ((if_pos hok).trans (if_pos hmode)))
  · have hok : noncemixOk nonceSeed input mode = true := noncemixOk_iff.mpr ⟨hseed, by rwa [if_neg hmode]⟩
    exact answersHash_of_answerHash hquiet (congrArg _ ((if_pos hok).trans (if_neg hmode)))
  · refine refuses_of_hashing_not_wellFormed hquiet rfl (mt noncemixOk_iff.mp ?_)
    simpa only [not_and_or, not_le] using hbad

/-- Settles O30: the serial bytes of R153 are those of the operand. -/
theorem sesskeyHashesItsLayout : Obligations.SesskeyHashesItsLayout := by
  intro s slotKey slot serial chipNonce hquiet
  refine ⟨⟨[.bytes slotKey, .nat slot, .bytes serial, .bytes chipNonce], rfl⟩, fun hkey hslot hserial hnonce => ?_,
    fun hbad => ?_⟩
  · rw [← sesskeyMsg_eq]
    exact ⟨sesskeyMsg_length hkey hnonce slot serial,
      answersHash_of_chainOperation hquiet rfl
        ((wellFormed_sesskey_iff (p := s.params)).mpr ⟨hkey, hslot, hserial, hnonce⟩)⟩
  · refine refuses_of_hashing_not_wellFormed hquiet rfl (mt wellFormed_sesskey_iff.mp ?_)
    simpa only [not_and_or, not_le] using hbad

/-- Settles O31. -/
theorem xor32XorsLaneByLane : Obligations.Xor32XorsLaneByLane := by
  intro s a b hquiet
  refine ⟨⟨[.bytes a, .bytes b], rfl⟩, fun ha hb => ?_, fun hbad => ?_⟩
  · refine ⟨xorBytes a b, answersBytes_xor32 hquiet ha hb, ?_, fun i _ => xorBytes_getD (ha.trans hb.symm) i⟩
    rw [xorBytes_length, ha, hb, Nat.min_self]
  · refine refuses_of_hashing_not_wellFormed hquiet rfl (mt wellFormed_xor32_iff.mp ?_)
    simpa only [not_and_or] using hbad

/-- Settles O32. -/
theorem xorBytesIsItsOwnInverse : Obligations.XorBytesIsItsOwnInverse :=
  fun p _ h => ⟨xorBytes_xorBytes h, xorBytes_self p, xorBytes_zeros p⟩

/-- Settles O33: the address of a slot up to 15 has a zero high byte. -/
theorem wrmacHashesItsLayout : Obligations.WrmacHashesItsLayout := by
  intro s sessionKey slot serial plaintext hquiet
  refine ⟨⟨[.bytes sessionKey, .nat slot, .bytes serial, .bytes plaintext], rfl⟩, fun hkey hslot hserial htext => ?_,
    fun hbad => ?_⟩
  · rw [← wrmacMsg_eq hslot]
    exact ⟨wrmacMsg_length hkey htext slot serial,
      answersHash_of_chainOperation hquiet rfl
        ((wellFormed_wrmac_iff (p := s.params)).mpr ⟨hkey, hslot, hserial, htext⟩)⟩
  · refine refuses_of_hashing_not_wellFormed hquiet rfl (mt wellFormed_wrmac_iff.mp ?_)
    simpa only [not_and_or, not_le] using hbad

/-- Settles O34: the layout is the parameter's, whatever it is. -/
theorem macrespHashesKeyChallengeOtherData : Obligations.MacrespHashesKeyChallengeOtherData := by
  intro s key challenge otherData hquiet
  refine ⟨⟨[.bytes key, .bytes challenge, .bytes otherData], rfl⟩, fun hkey hchallenge hother => ?_, fun hbad => ?_⟩
  · exact answersHash_of_chainOperation hquiet rfl
      ((wellFormed_macresp_iff (p := s.params)).mpr ⟨hkey, hchallenge, hother⟩)
  · refine refuses_of_hashing_not_wellFormed hquiet rfl (mt wellFormed_macresp_iff.mp ?_)
    simpa only [not_and_or] using hbad

/-- Settles O36: the first two hashes write the hash unit only, so the answer is that of the third. -/
theorem validateComposesTheChains : Obligations.ValidateComposesTheChains := by
  intro s serial deviceRandom challengeInput rootKey slot mode hquiet
  refine ⟨⟨[.bytes serial, .bytes deviceRandom, .bytes challengeInput, .bytes rootKey, .nat slot, .u8 mode], rfl⟩,
    fun hserial hrandom hroot hslot hinput => ?_, fun hbad => ?_⟩
  · have hok : validateOk serial deviceRandom challengeInput rootKey slot mode = true :=
      validateOk_iff.mpr ⟨hserial, hrandom, hroot, hslot, hinput⟩
    obtain ⟨u, hu⟩ := runNonceMix_eq deviceRandom challengeInput mode (runHash (derivekeyMsg rootKey slot serial) s)
    rw [← derivekeyMsg_of_slot hslot]
    refine answersHash_of_answerHash (u := u) hquiet ((congrArg _ (if_pos hok)).trans ?_)
    rw [hu]
    rfl
  · refine refuses_of_hashing_not_wellFormed hquiet rfl (mt validateOk_iff.mp ?_)
    by_cases hmode : mode = 0x03
    · simpa only [if_pos hmode, not_and_or, not_le] using hbad
    · simpa only [if_neg hmode, not_and_or, not_le] using hbad

/-- Settles O37: both lines XOR with the same 32-byte session key. -/
theorem encreadDecryptsWhatEncwriteEncrypts : Obligations.EncreadDecryptsWhatEncwriteEncrypts := by
  intro p slot k keyK serial input pt r mode enc s hpt hquiet
  have hkey : (sequenceKey k keyK serial mode input r).length = 32 := sequenceKey_length ..
  have hct : (xorBytes pt (sequenceKey k keyK serial mode input r)).length = 32 := by
    rw [xorBytes_length, hpt, hkey, Nat.min_self]
  refine ⟨xorBytes pt (sequenceKey k keyK serial mode input r), rfl, answersBytes_xor32 hquiet hpt hkey, rfl, ?_⟩
  have hdecrypt := answersBytes_xor32 hquiet hct hkey
  rwa [xorBytes_xorBytes (hpt.trans hkey.symm)] at hdecrypt

/-- Settles O55: a pure operation only delivers a response, and with no arrival that takes no input. -/
theorem pureOperationsTouchNothingShared : Obligations.PureOperationsTouchNothingShared := by
  intro i s t hi h
  obtain ⟨r, u, hexec, hparams, hinputs, -, hwire, hfree⟩ := exec_pure hi s
  rw [hexec] at h
  cases h
  refine ⟨(deliver_wire r u).trans hwire, (deliver_freeCount r u).trans hfree, (deliver_params r u).trans hparams,
    fun hquiet => ?_⟩
  rw [deliver_of_quiet (hinputs ▸ hquiet)]
  exact hinputs

/-- Settles O35, by the runs of the default layout. -/
theorem defaultOdLayoutInterleavesTo24Bytes : Obligations.DefaultOdLayoutInterleavesTo24Bytes :=
  fun _ h => ⟨interleave_defaultOdLayout h, List.length_map _⟩

end Sys2Proof.Proofs
end

section
/-! SUPPORT. A request that arrives while an operation runs (R175; log 9). From where it lands the two runs differ in
what is delivered before it; until then they differ in what is still to come. -/

namespace Sys2Proof.Machine

open Sys2Proof.Spec

/-- How an operation ends that runs with the inputs `before ++ after`, in `t`, and with an arriving request between the
two, in `t'`; `d` is what was delivered when it began. -/
inductive ArrivalOutcome (before after : List Input) (r : Request) (d : List Response) (t t' : State) : Prop
  /-- the request is refused with `Busy`, and the operation ends as it would have -/
  | lands (x y : List Response) (taken : t.inputs.length ≤ after.length) (noReset : .during .reset ∉ before)
      (delivered : t.delivered = d ++ x ++ y) (eq : t' = { t with delivered := d ++ x ++ [respBusy] ++ y })
  /-- the operation ends before it comes to the request -/
  | waits (left : List Input) (ended : left ≠ [] ∨ .during .reset ∈ before) (inputs : t.inputs = left ++ after)
      (eq : t' = { t with inputs := left ++ .during (.request r) :: after })

/-- The outcome from a later point of the operation, up to which no reset was taken and nothing delivered, is the
outcome. -/
theorem ArrivalOutcome.of_later {before left after : List Input} {r : Request} {d e : List Response} {t t' : State}
    (h : ArrivalOutcome left after r e t t') (hdelivered : e = d)
    (hreset : .during .reset ∈ left ↔ .during .reset ∈ before) : ArrivalOutcome before after r d t t' := by
  subst hdelivered
  cases h with
  | lands x y taken noReset delivered eq => exact .lands x y taken (mt hreset.mpr noReset) delivered eq
  | waits l ended inputs eq => exact .waits l (ended.imp_right hreset.mp) inputs eq

/-- The outcome from a later point of the operation, where one more request was refused, is the outcome. -/
theorem ArrivalOutcome.of_refused {before after : List Input} {r q : Request} {d : List Response} {t t' : State}
    (h : ArrivalOutcome before after r (d ++ [respBusy]) t t') :
    ArrivalOutcome (.during (.request q) :: before) after r d t t' := by
  cases h with
  | lands x y taken noReset delivered eq =>
    exact .lands (respBusy :: x) y taken (by simpa using noReset) (by simpa using delivered) (by simpa using eq)
  | waits l ended inputs eq => exact .waits l (ended.imp_right (List.mem_cons_of_mem _)) inputs eq

/-- What runs takes its inputs in order, and what was delivered before only stands before what it delivers. -/
structure RunsInOrder (F : State → State) : Prop where
  inputs : ∀ s, (F s).inputs <:+ s.inputs
  delivered : ∀ (s : State) d,
    F { s with delivered := d ++ s.delivered } = { F s with delivered := d ++ (F s).delivered }

theorem RunsInOrder.comp {F G : State → State} (hF : RunsInOrder F) (hG : RunsInOrder G) :
    RunsInOrder fun s => F (G s) where
  inputs s := (hF.inputs (G s)).trans (hG.inputs s)
  delivered s d := by rw [hG.delivered, hF.delivered]

theorem RunsInOrder.refuseArrivals : RunsInOrder refuseArrivals where
  inputs s := afterDuring_suffix s.inputs
  delivered s d := by simp [Machine.refuseArrivals]

/-- What goes on in order after the arrivals runs in order with them. -/
theorem RunsInOrder.onArrivals {G : State → State} (hG : RunsInOrder G) : RunsInOrder fun s => onArrivals s G where
  inputs s := by
    obtain h | h := onArrivals_cases s G <;> rw [h]
    · exact RunsInOrder.refuseArrivals.inputs s
    · exact (hG.comp .refuseArrivals).inputs s
  delivered s d := by
    unfold Machine.onArrivals
    split
    · rw [RunsInOrder.refuseArrivals.delivered]
      rfl
    · exact (hG.comp .refuseArrivals).delivered s d

/-- A request that arrives before the operation goes on in order lands there: `Busy`, and all that follows. -/
theorem RunsInOrder.lands {G : State → State} (hG : RunsInOrder G) (s : State) (after : List Input) (r : Request) :
    ArrivalOutcome [] after r s.delivered (Machine.onArrivals { s with inputs := after } G)
      (Machine.onArrivals { s with inputs := .during (.request r) :: after } G) := by
  have hend := hG.onArrivals.delivered { s with inputs := after, delivered := [] }
  have hthis := hend s.delivered
  have hthat := hend (s.delivered ++ [respBusy])
  simp only [List.append_nil] at hthis hthat
  rw [onArrivals_request]
  refine .lands [] (Machine.onArrivals { s with inputs := after, delivered := [] } G).delivered
    (hG.onArrivals.inputs { s with inputs := after }).length_le List.not_mem_nil ?_ ?_
  · simp [hthis]
  · simp [hthis, hthat]

/-- An arriving request does not disturb `F` (R175). -/
structure Undisturbed (F : State → State) : Prop extends RunsInOrder F where
  arrival : ∀ (s : State) before after r, ArrivalOutcome before after r s.delivered
    (F { s with inputs := before ++ after }) (F { s with inputs := before ++ .during (.request r) :: after })

/-- What goes on after the arrivals is not disturbed with them, if it is not while inputs stand before the request:
where none does, the request lands here. -/
theorem Undisturbed.onArrivals {G : State → State} (hG : RunsInOrder G)
    (harrival : ∀ (s : State) input left after r, ArrivalOutcome (input :: left) after r s.delivered
      (G { s with inputs := input :: left ++ after })
      (G { s with inputs := input :: left ++ .during (.request r) :: after })) :
    Undisturbed fun s => onArrivals s G where
  toRunsInOrder := hG.onArrivals
  arrival s before after r := by
    induction before generalizing s with
    | nil => exact hG.lands s after r
    | cons input left ih =>
      have hquiet (hq : ∀ rest, quiet (input :: rest) = true) :
          ArrivalOutcome (input :: left) after r s.delivered
            (Machine.onArrivals { s with inputs := input :: left ++ after } G)
            (Machine.onArrivals { s with inputs := input :: left ++ .during (.request r) :: after } G) := by
        rw [onArrivals_of_quiet (hq _), onArrivals_of_quiet (hq _)]
        exact harrival s input left after r
      cases input with
      | during a =>
        cases a with
        | request q =>
          simp only [List.cons_append, onArrivals_request]
          exact (ih { s with delivered := s.delivered ++ [respBusy] }).of_refused
        | reset =>
          rw [onArrivals_reset (s := { s with inputs := .during .reset :: left ++ after }) rfl,
            onArrivals_reset (s := { s with inputs := .during .reset :: left ++ .during (.request r) :: after }) rfl]
          exact .waits left (.inr List.mem_cons_self) rfl rfl
      | _ => exact hquiet fun _ => rfl

/-- Delivering a response is not disturbed. -/
theorem Undisturbed.deliver (r : Response) : Undisturbed (deliver r) :=
  .onArrivals ⟨fun _ => List.suffix_rfl, fun s d => by simp [answered]⟩
    fun _ input left _ _ => .waits (input :: left) (.inl (List.cons_ne_nil _ _)) rfl rfl

/-! ## An operation as a whole -/

/-- What works on registers alone, whatever the inputs and the responses are, and then goes on undisturbed, is not
disturbed. -/
theorem Undisturbed.of_prepared {F : State → State}
    (h : ∀ s : State, ∃ (G : State → State) (u : State), Undisturbed G ∧ ∀ inputs delivered,
      F { s with inputs := inputs, delivered := delivered } = G { u with inputs := inputs, delivered := delivered }) :
    Undisturbed F where
  inputs s := by
    obtain ⟨G, u, hG, hF⟩ := h s
    have hs := hF s.inputs s.delivered
    exact hs ▸ hG.inputs _
  delivered s d := by
    obtain ⟨G, u, hG, hF⟩ := h s
    have hs := hF s.inputs s.delivered
    have hd := hF s.inputs (d ++ s.delivered)
    have hlog := hG.delivered { u with inputs := s.inputs, delivered := s.delivered } d
    rw [← hs] at hlog
    exact hd.trans hlog
  arrival s before after r := by
    obtain ⟨G, u, hG, hF⟩ := h s
    have hruns := hG.arrival { u with delivered := s.delivered } before after r
    have hthis := hF (before ++ after) s.delivered
    have hthat := hF (before ++ .during (.request r) :: after) s.delivered
    rwa [← hthis, ← hthat] at hruns

/-- The checks of PARSE do not see inputs and responses. -/
theorem parseCrc_withStreams (rx : Bytes) (s : State) (inputs : List Input) (delivered : List Response) :
    parseCrc rx { s with inputs := inputs, delivered := delivered } =
      { parseCrc rx s with inputs := inputs, delivered := delivered } := by
  obtain _ | ⟨len, rest⟩ := rx
  · rfl
  · simp only [parseCrc]
    split <;> rfl

theorem Undisturbed.deliver_parseCrc (r : Response) (rx : Bytes) :
    Undisturbed fun s => Machine.deliver r (parseCrc rx s) :=
  .of_prepared fun s => ⟨_, parseCrc rx s, .deliver r, fun inputs delivered =>
    congrArg _ (parseCrc_withStreams rx s inputs delivered)⟩

theorem Undisturbed.finish : Undisturbed finish :=
  .of_prepared fun s => ⟨_, s,
    .deliver_parseCrc (checkDataLen s.codec.dataLen (parseResponse s.codec.rx)) s.codec.rx, fun _ _ => rfl⟩

/-- A transport access `A` and its `answer`, which is taken from the head of the inputs where there is one. -/
structure Access {α : Type} (answer : State → α) (A : State → State) : Prop extends RunsInOrder A where
  delivered_eq : ∀ s, (A s).delivered = s.delivered
  answer_delivered : ∀ (s : State) delivered, answer { s with delivered := delivered } = answer s
  reset_iff : ∀ s : State, .during .reset ∈ (A s).inputs ↔ .during .reset ∈ s.inputs
  answer_more : ∀ (s : State) input rest more,
    answer { s with inputs := input :: rest ++ more } = answer { s with inputs := input :: rest }
  more : ∀ (s : State) input rest more, A { s with inputs := input :: rest ++ more } =
    { A { s with inputs := input :: rest } with inputs := (A { s with inputs := input :: rest }).inputs ++ more }

/-- A transport access that is not disturbed whatever it answers: a request that arrives lands before it or after. -/
theorem Undisturbed.access {α : Type} {answer : State → α} {A : State → State} {F : α → State → State}
    (hA : Access answer A) (hF : ∀ a, Undisturbed (F a)) :
    Undisturbed fun s => Machine.onArrivals s fun u => F (answer u) (A u) := by
  refine .onArrivals ⟨fun s => ((hF _).inputs (A s)).trans (hA.inputs s), fun s d => ?_⟩
    fun s input rest after r => ?_
  · rw [hA.answer_delivered, hA.delivered, (hF _).delivered]
  · have h := (hF (answer { s with inputs := input :: rest })).arrival (A { s with inputs := input :: rest })
      (A { s with inputs := input :: rest }).inputs after r
    rw [hA.answer_more, hA.answer_more, hA.more, hA.more]
    exact h.of_later (hA.delivered_eq _) (hA.reset_iff _)

theorem reset_mem_dropWriteAnswer (inputs : List Input) :
    .during .reset ∈ dropWriteAnswer inputs ↔ .during .reset ∈ inputs := by
  unfold dropWriteAnswer
  split <;> simp

theorem reset_mem_dropReadAnswer (inputs : List Input) :
    .during .reset ∈ dropReadAnswer inputs ↔ .during .reset ∈ inputs := by
  unfold dropReadAnswer
  split <;> simp

theorem Access.txWrite : Access writeAnswerOf txWrite where
  inputs s := dropWriteAnswer_suffix s.inputs
  delivered _ _ := rfl
  delivered_eq _ := rfl
  answer_delivered _ _ := rfl
  reset_iff s := reset_mem_dropWriteAnswer s.inputs
  answer_more _ input _ _ := by cases input <;> rfl
  more _ input _ _ := by cases input <;> rfl

theorem Access.txRead : Access (fun s => readAnswerOf s.codec.respLen s) txRead where
  inputs s := dropReadAnswer_suffix s.inputs
  delivered _ _ := rfl
  delivered_eq _ := rfl
  answer_delivered _ _ := rfl
  reset_iff s := reset_mem_dropReadAnswer s.inputs
  answer_more _ input _ _ := by
    cases input with
    | readAnswer answer => cases answer <;> rfl
    | _ => rfl
  more _ input _ _ := by
    cases input with
    | readAnswer answer => cases answer <;> rfl
    | _ => rfl

/-- How the poll loop goes on after a read, with `k` attempts left (R104). -/
def afterRead (k : Nat) : Option Bytes → State → State
  | none => poll k
  | some rx => fun s => finish (receive rx s)

theorem poll_succ (k : Nat) : poll (k + 1) =
    fun s => onArrivals s fun u => afterRead k (readAnswerOf u.codec.respLen u) (txRead u) := by
  funext s
  refine congrArg (onArrivals s) (funext fun u => ?_)
  cases readAnswerOf u.codec.respLen u <;> rfl

/-- How a SEND goes on after its write (R104). -/
def afterWrite : Bool → State → State
  | true => fun s => poll s.params.pollMax s
  | false => deliver respNoResponse

theorem transmit_eq : transmit =
    fun s => onArrivals (startAttempts s) fun u => afterWrite (writeAnswerOf u) (txWrite u) := by
  funext s
  refine congrArg (onArrivals _) (funext fun u => ?_)
  cases writeAnswerOf u <;> rfl

theorem Undisturbed.poll (k : Nat) : Undisturbed (poll k) := by
  induction k with
  | zero => exact .deliver respNoResponse
  | succ k ih =>
    rw [poll_succ]
    refine .access .txRead fun answer => ?_
    cases answer with
    | none => exact ih
    | some rx => exact .of_prepared fun s => ⟨_, receive rx s, .finish, fun _ _ => rfl⟩

theorem Undisturbed.transmit : Undisturbed transmit := by
  rw [transmit_eq]
  have hwritten : Undisturbed fun s =>
      Machine.onArrivals s fun u => afterWrite (writeAnswerOf u) (Machine.txWrite u) := by
    refine .access .txWrite fun ack => ?_
    cases ack with
    | true => exact .of_prepared fun s => ⟨_, s, .poll s.params.pollMax, fun _ _ => rfl⟩
    | false => exact .deliver respNoResponse
  exact .of_prepared fun s => ⟨_, startAttempts s, hwritten, fun _ _ => rfl⟩

theorem Undisturbed.runWire (opcode : Byte) (f : Frame) (dataLen : Nat) : Undisturbed (runWire opcode f dataLen) :=
  .of_prepared fun s =>
    ⟨_, { s with
        stage := .framed
        codec := { s.codec with tx := f.bytes opcode, respLen := respReadLen, dataLen := some dataLen } },
      .transmit, fun _ _ => rfl⟩

/-- Every instruction prepares registers, whatever the inputs are, and goes on undisturbed. -/
theorem exec_undisturbed (i : Instr) (s : State) :
    ∃ (F : State → State) (u : State), Undisturbed F ∧ u.delivered = s.delivered ∧
      ∀ inputs, exec i { s with inputs := inputs } = .next (F { u with inputs := inputs }) := by
  cases hi : isRequest i with
  | true =>
    obtain hc | hh | ⟨b, o, l, rfl⟩ | ⟨op, p1, p2, pl, rfl⟩ | ⟨rx, rfl⟩ := request_cases hi
    · obtain ⟨F, hF, hexec⟩ := exec_command s.params hc
      cases hF with
      | refuses => exact ⟨_, s, .deliver respBadOperand, rfl, fun _ => hexec _ rfl⟩
      | sends op p1 p2 pl n d _ => exact ⟨_, stageFrame op p1 p2 pl n d s, .transmit, rfl, fun _ => hexec _ rfl⟩
    · obtain ⟨r, g, -, hexec⟩ := exec_hashing s.params hh
      exact ⟨_, { s with hashUnit := g s.hashUnit }, .deliver r, rfl, fun _ => hexec _ rfl⟩
    · by_cases hok : rangeOk b o l = true
      · exact ⟨_, runCrc b o l s, .deliver _, rfl, fun _ => congrArg _ (if_pos hok)⟩
      · exact ⟨_, s, .deliver _, rfl, fun _ => congrArg _ (if_neg hok)⟩
    · by_cases hok : frameFits s.params pl = true
      · exact ⟨_, loadFrame op p1 p2 pl s, .deliver _, rfl, fun _ => congrArg _ (if_pos hok)⟩
      · exact ⟨_, s, .deliver _, rfl, fun _ => congrArg _ (if_neg hok)⟩
    · exact ⟨_, { s with codec := { s.codec with rx := rx } }, .deliver_parseCrc (parseResponse rx) rx, rfl,
        fun _ => rfl⟩
  | false =>
    cases i with
    | wireRead f => exact ⟨_, s, .runWire s.params.opcRead f (readLen (!sizeBitSet f.param1)), rfl, fun _ => rfl⟩
    | wireWrite f => exact ⟨_, s, .runWire s.params.opcWrite f 1, rfl, fun _ => rfl⟩
    | wireNonce f => exact ⟨_, s, .runWire s.params.opcNonce f (nonceLen f.param1), rfl, fun _ => rfl⟩
    | wireGendig f => exact ⟨_, s, .runWire s.params.opcGendig f 1, rfl, fun _ => rfl⟩
    | wireMac f => exact ⟨_, s, .runWire s.params.opcMac f 32, rfl, fun _ => rfl⟩
    | wireCheckmac f => exact ⟨_, s, .runWire s.params.opcCheckmac f 1, rfl, fun _ => rfl⟩
    | wireLock f => exact ⟨_, s, .runWire s.params.opcLock f 1, rfl, fun _ => rfl⟩
    | response len rest => exact ⟨_, { s with codec := { s.codec with rx := len :: rest } }, .finish, rfl, fun _ => rfl⟩
    | _ => simp [isRequest] at hi

end Sys2Proof.Machine
end

section
/-! SUPPORT. `BadOperand` and the domain of the operands (R174): every request with an operand outside its domain is
refused before it does anything else, and no other answers `BadOperand`. -/

namespace Sys2Proof.Machine

open Sys2Proof.Spec

/-- A request with an operand outside its domain is refused before any other effect, but for PARSE of the empty
string. -/
theorem refuses_request_of_not_wellFormed {i : Instr} {s : State} (hquiet : quiet s.inputs = true)
    (hi : isRequest i = true) (hparse : i ≠ .parse []) (hbad : ¬ wellFormed s.params i = true) : Refuses i s := by
  obtain hc | hh | ⟨b, o, l, rfl⟩ | ⟨c, p1, p2, pl, rfl⟩ | ⟨rx, rfl⟩ := request_cases hi
  · exact refuses_of_not_wellFormed hquiet hc hbad
  · exact refuses_of_hashing_not_wellFormed hquiet hh hbad
  · exact refuses_of_deliver hquiet (congrArg _ (if_neg hbad))
  · exact refuses_of_deliver hquiet (congrArg _ (if_neg hbad))
  · have hrx : rx = [] := by simpa [wellFormed] using hbad
    exact absurd (congrArg _ hrx) hparse

/-- PARSE of the empty string is refused with the empty string in `RX` (log 10). -/
theorem ends_parse_nil {s : State} (hquiet : quiet s.inputs = true) :
    Ends (.parse []) s (answered respBadOperand { s with codec := { s.codec with rx := [] } }) respBadOperand :=
  ends_of_deliver hquiet rfl ⟨rfl, rfl, rfl, rfl, rfl⟩

/-! ## What a request inside its domain delivers -/

section
variable {before : List Response} {s t : State}

/-- What `t` has delivered after `before` has no `BadOperand` in it. -/
def NoBadOperand (before : List Response) (t : State) : Prop :=
  ∃ rs, t.delivered = before ++ rs ∧ ∀ r ∈ rs, r.kind ≠ .badOperand

theorem NoBadOperand.append {rs : List Response} (h : NoBadOperand before s) (hrs : ∀ r ∈ rs, r.kind ≠ .badOperand)
    (ht : t.delivered = s.delivered ++ rs) : NoBadOperand before t := by
  obtain ⟨rs', hrs', hno⟩ := h
  exact ⟨rs' ++ rs, by rw [ht, hrs', List.append_assoc], List.forall_mem_append.mpr ⟨hno, hrs⟩⟩

/-- Where arrivals land, only `Busy` is delivered. -/
theorem NoBadOperand.onArrivals {f : State → State} (h : NoBadOperand before s)
    (hf : NoBadOperand before (refuseArrivals s) → NoBadOperand before (f (refuseArrivals s))) :
    NoBadOperand before (onArrivals s f) := by
  have hbusy : ∀ r ∈ List.replicate (busyCount s.inputs) respBusy, r.kind ≠ .badOperand := by
    intro r hr
    rw [List.eq_of_mem_replicate hr]
    nofun
  have hrefused : NoBadOperand before (refuseArrivals s) := h.append hbusy rfl
  obtain heq | heq := onArrivals_cases s f <;> rw [heq]
  · exact hrefused
  · exact hf hrefused

theorem NoBadOperand.deliver {r : Response} (h : NoBadOperand before s) (hr : r.kind ≠ .badOperand) :
    NoBadOperand before (deliver r s) :=
  h.onArrivals fun hrefused => hrefused.append (List.forall_mem_singleton.mpr hr) rfl

/-- PARSE refuses the empty string only. -/
theorem parseResponse_kind_ne_badOperand {rx : Bytes} (h : rx ≠ []) : (parseResponse rx).kind ≠ .badOperand := by
  obtain hk | ⟨hnil, -⟩ := parseResponse_kind rx
  · intro hbad
    simp [hbad] at hk
  · exact absurd hnil h

theorem NoBadOperand.finish (h : NoBadOperand before s) (hrx : s.codec.rx ≠ []) : NoBadOperand before (finish s) := by
  have hparsed : NoBadOperand before (parseCrc s.codec.rx s) := h.append (List.forall_mem_nil _) (by simp)
  refine hparsed.deliver ?_
  obtain hr | hr := checkDataLen_cases s.codec.dataLen (parseResponse s.codec.rx) <;> rw [hr]
  · exact parseResponse_kind_ne_badOperand hrx
  · nofun

/-- A read that returns bytes returns as many as it asks for, so a poll loop parses the empty string only where its
reads ask for none. -/
theorem NoBadOperand.poll (k : Nat) (h : NoBadOperand before s) (hlen : 0 < s.codec.respLen) :
    NoBadOperand before (poll k s) := by
  induction k generalizing s with
  | zero => exact h.deliver nofun
  | succ k ih =>
    refine h.onArrivals fun hrefused => ?_
    split
    · exact ih hrefused hlen
    · next rx hrx =>
      have hread : rx ≠ [] := List.ne_nil_of_length_pos (hlen.trans_eq (readAnswerOf_length hrx).symm)
      exact NoBadOperand.finish (s := receive rx (txRead (refuseArrivals s))) hrefused hread

theorem NoBadOperand.transmit (h : NoBadOperand before s) (hlen : 0 < s.codec.respLen) :
    NoBadOperand before (transmit s) := by
  refine NoBadOperand.onArrivals (s := startAttempts s) h fun hrefused => ?_
  split
  · exact NoBadOperand.poll _ (s := txWrite _) hrefused hlen
  · exact NoBadOperand.deliver (s := txWrite _) hrefused nofun

end

/-! ## A request inside its domain is accepted -/

/-- The instruction answers, and not with `BadOperand`. -/
def Accepts (i : Instr) (s : State) : Prop := ∃ t, exec i s = .next t ∧ NoBadOperand s.delivered t

section
variable {i : Instr} {s u : State}

theorem accepts_of_deliver {r : Response} (h : exec i s = .next (deliver r u)) (hdelivered : u.delivered = s.delivered)
    (hr : r.kind ≠ .badOperand) : Accepts i s := by
  have hu : NoBadOperand s.delivered u := ⟨[], by rw [hdelivered, List.append_nil], List.forall_mem_nil _⟩
  exact ⟨_, h, hu.deliver hr⟩

/-- A SEND whose checks pass transmits its frame, with reads of at least four bytes (R104). -/
theorem accepts_of_sendFrame {opcode param1 : Byte} {param2 : Half} {payload : Bytes} {n : Nat} {dataLen : Option Nat}
    (h : exec i s = .next (sendFrame opcode param1 param2 payload n dataLen s)) (hlen : respLenOk n = true)
    (hfits : frameFits s.params payload = true) : Accepts i s := by
  have hpos : 0 < n := by
    have := respLenOk_iff.mp hlen
    omega
  have hs : NoBadOperand s.delivered (stageFrame opcode param1 param2 payload n dataLen s) :=
    ⟨[], (List.append_nil _).symm, List.forall_mem_nil _⟩
  rw [sendFrame, if_pos hlen, if_pos hfits] at h
  exact ⟨_, h, hs.transmit hpos⟩

theorem accepts_command (hi : isCommand i = true) (hwf : wellFormed s.params i = true) : Accepts i s := by
  cases i with
  | send c p1 p2 pl n =>
    obtain ⟨hlen, hfits⟩ := Bool.and_eq_true_iff.mp hwf
    exact accepts_of_sendFrame rfl hlen hfits
  | cmdRead zone block offset fourByte =>
    simp only [wellFormed, Bool.and_eq_true] at hwf
    obtain ⟨⟨hzone, hloc⟩, hfits⟩ := hwf
    obtain ⟨z, hz⟩ := Option.isSome_iff_exists.mp hzone
    exact accepts_of_sendFrame (exec_cmdRead hz hloc fourByte) rfl hfits
  | cmdWrite zone block offset data mac encrypted =>
    simp only [wellFormed, Bool.and_eq_true] at hwf
    obtain ⟨⟨⟨⟨hzone, hdata⟩, hmac⟩, hloc⟩, hfits⟩ := hwf
    obtain ⟨z, hz⟩ := Option.isSome_iff_exists.mp hzone
    exact accepts_of_sendFrame (exec_cmdWrite hz hdata hmac hloc encrypted) rfl hfits
  | cmdNonce mode input =>
    simp only [wellFormed, Bool.and_eq_true, decide_eq_true_eq] at hwf
    exact accepts_of_sendFrame (exec_cmdNonce hwf.1) rfl hwf.2
  | cmdGendig zone slot extra =>
    simp only [wellFormed, Bool.and_eq_true] at hwf
    obtain ⟨⟨hzone, hslot⟩, hfits⟩ := hwf
    exact accepts_of_sendFrame (exec_cmdGendig hzone hslot extra) rfl hfits
  | cmdMac slot challenge flags =>
    simp only [wellFormed, Bool.and_eq_true] at hwf
    obtain ⟨⟨hslot, hchallenge⟩, hfits⟩ := hwf
    exact accepts_of_sendFrame (exec_cmdMac hslot hchallenge flags) rfl hfits
  | cmdCheckmac slot challenge response otherData flags =>
    simp only [wellFormed, Bool.and_eq_true] at hwf
    obtain ⟨⟨⟨⟨hslot, hchallenge⟩, hresponse⟩, hother⟩, hfits⟩ := hwf
    exact accepts_of_sendFrame (exec_cmdCheckmac hslot hchallenge hresponse hother flags) rfl hfits
  | cmdLock isData checksum skipChecksum => exact accepts_of_sendFrame rfl rfl hwf
  | _ => simp [isCommand] at hi

theorem accepts_hashing (hi : isHashing i = true) (hwf : wellFormed s.params i = true) : Accepts i s := by
  cases i with
  | sha256 | derivekey | sesskey | xor32 | wrmac | macresp =>
    exact accepts_of_deliver (congrArg _ (if_pos hwf)) rfl nofun
  | noncemix seed input mode =>
    by_cases hmode : mode = noncePassthrough
    · exact accepts_of_deliver (congrArg _ ((if_pos hwf).trans (if_pos hmode))) rfl nofun
    · exact accepts_of_deliver (congrArg _ ((if_pos hwf).trans (if_neg hmode))) rfl nofun
  | validate serial random input root slot mode =>
    obtain ⟨w, hw⟩ := runNonceMix_eq random input mode (runHash (derivekeyMsg root slot serial) s)
    refine accepts_of_deliver (congrArg _ (if_pos hwf)) ?_ nofun
    rw [hw]
    rfl
  | _ => simp [isHashing, isPure, isRequest, isCommand] at hi

/-- No request inside its domain is answered `BadOperand` (R174). -/
theorem accepts_of_wellFormed (hi : isRequest i = true) (hwf : wellFormed s.params i = true) : Accepts i s := by
  obtain hc | hh | ⟨b, o, l, rfl⟩ | ⟨c, p1, p2, pl, rfl⟩ | ⟨rx, rfl⟩ := request_cases hi
  · exact accepts_command hc hwf
  · exact accepts_hashing hh hwf
  · exact accepts_of_deliver (congrArg _ (if_pos hwf)) rfl nofun
  · exact accepts_of_deliver (congrArg _ (if_pos hwf)) rfl nofun
  · exact accepts_of_deliver rfl (parseCrc_delivered rx _) (parseResponse_kind_ne_badOperand (of_decide_eq_true hwf))

end

/-! ## Requests the decoder refuses -/

/-- An assigned `opsel` selects an operation (R61). -/
theorem opNameOf_isSome {opsel : Byte} (h : opsel.toNat ∈ assignedOpsels) : (opNameOf opsel).isSome = true := by
  have hall : ∀ b : Byte, b.toNat ∈ assignedOpsels → (opNameOf b).isSome = true := by decide
  exact hall opsel h

/-- Operands that are not of the number and kinds of the operation are refused by the decoder (log 13). -/
theorem decodeRequest_illTyped {r : Request} (hopsel : r.opsel.toNat ∈ assignedOpsels)
    (hbad : ∀ i, decodeRequest r ≠ .ok i) : decodeRequest r = .error (.operandShape r.opsel) := by
  obtain ⟨op, hop⟩ := Option.isSome_iff_exists.mp (opNameOf_isSome hopsel)
  cases hoperands : operandsOf op r.operands with
  | none => simp [decodeRequest, hop, hoperands]
  | some i => exact absurd (decodeRequest_eq_ok_iff.mpr ⟨op, hop, hoperands⟩) (hbad i)

/-- With no arrival, the idle engine answers a request the decoder refuses at once, and nothing else changes. -/
theorem step_of_rejected {s : State} {r : Request} {rest : List Input} {e : Reject} (idle : s.stage = .idle)
    (hbusy : s.busy = false) (hin : s.inputs = .request r :: rest) (hquiet : quiet rest = true)
    (hdecode : decodeRequest r = .error e) :
    step s = .next { s with inputs := rest, delivered := s.delivered ++ [rejectResponse e] } := by
  have htake : takeInput (.request r) { s with inputs := rest } =
      .done (deliver (rejectResponse e) (accept { s with inputs := rest })) := by
    simp [takeInput, presentRequest, hbusy, hdecode]
  have hquiet' : quiet (accept { s with inputs := rest }).inputs = true := hquiet
  rw [step_idle_cons idle hin, htake, deliver_of_quiet hquiet', Fetched.outcome, answered, accept, ← idle, ← hbusy]

end Sys2Proof.Machine
end

section
/-! The statements about exceptional outcomes: `Busy` and `BadOperand`. -/

namespace Sys2Proof.Proofs

open Sys2Proof.Machine Sys2Proof.Spec

/-- Settles O45: where the request lands, only what is delivered differs; where the operation ends first, only what is
still to come. -/
theorem arrivingRequestDoesNotDisturbTheOperation : Obligations.ArrivingRequestDoesNotDisturbTheOperation := by
  refine ⟨fun i s before after r => ?_, fun s r rest idle hbusy hin => ?_⟩
  · obtain ⟨F, u, hF, hdelivered, hexec⟩ := exec_undisturbed i s
    refine ⟨_, _, hexec _, hexec _, ?_⟩
    rw [← hdelivered]
    cases hF.arrival u before after r with
    | lands x y taken noReset delivered eq =>
      exact ⟨fun _ _ => ⟨x, y, delivered, eq⟩, fun hwaits => absurd hwaits (by simp [taken, noReset])⟩
    | waits left ended inputs eq =>
      refine ⟨fun htaken noReset => ?_, fun _ => ⟨left, inputs, eq⟩⟩
      have hleft : left = [] := by simpa [inputs] using htaken
      exact absurd ended (by simp [hleft, noReset])
  · rw [step_idle_cons idle hin, takeInput, presentRequest, if_pos hbusy]
    rfl

/-- Settles O54, by the family of the request: each refuses before any other effect exactly outside its domain, and an
ill-typed request is refused by the decoder. -/
theorem badOperandExactlyWhenIllFormed : Obligations.BadOperandExactlyWhenIllFormed := by
  refine ⟨fun i s hi hquiet => ⟨fun hbad => ?_, fun hwf t ht => ?_⟩,
    fun s r rest idle hbusy hin hquiet hopsel hbad =>
      step_of_rejected idle hbusy hin hquiet (decodeRequest_illTyped hopsel hbad)⟩
  · by_cases hparse : i = .parse []
    · subst hparse
      exact ⟨_, ends_parse_nil hquiet, rfl, rfl, rfl⟩
    · rw [if_neg hparse]
      exact refuses_request_of_not_wellFormed hquiet hi hparse (by simp [hbad])
  · obtain ⟨t', ht', rs, hrs, hno⟩ := accepts_of_wellFormed hi hwf
    cases ht.symm.trans ht'
    rw [hrs, List.drop_left]
    exact fun hmem => hno _ hmem rfl

end Sys2Proof.Proofs
end

section
/-! SUPPORT. A reset during an operation, where it lands (R191, log 9): before the first transport access of any
instruction, or after the write of one that transmits a frame (R197). -/

namespace Sys2Proof.Machine

open Sys2Proof.Spec

/-! ## What a reset leaves -/

/-- A reset leaves nothing of the working registers, nor of the point the operation had reached. -/
theorem SameOutside.engineReset_eq {s u : State} (same : SameOutside s u) (rest : List Input) :
    engineReset { u with inputs := rest } = engineReset { s with inputs := rest } := by
  obtain ⟨hparams, -, hdelivered, hwire, hfree⟩ := same
  simp only [engineReset, hparams, hdelivered, hwire, hfree]

section
variable {s : State} {rest : List Input}

theorem deliver_reset (r : Response) (hin : s.inputs = .during .reset :: rest) :
    deliver r s = engineReset { s with inputs := rest } := onArrivals_reset hin

theorem finish_reset (hin : s.inputs = .during .reset :: rest) : finish s = engineReset { s with inputs := rest } := by
  obtain ⟨c, hc⟩ := parseCrc_eq s.codec.rx s
  rw [finish, deliver_reset _ (by simpa using hin), hc]
  rfl

/-- It lands before the next read, or before the delivery of `NoResponse` when no attempt is left. -/
theorem poll_reset (k : Nat) (hin : s.inputs = .during .reset :: rest) :
    poll k s = engineReset { s with inputs := rest } := by
  cases k with
  | zero => exact deliver_reset _ hin
  | succ k => exact onArrivals_reset hin

theorem transmit_reset (hin : s.inputs = .during .reset :: rest) :
    transmit s = engineReset { s with inputs := rest } := by
  have hin' : (startAttempts s).inputs = .during .reset :: rest := hin
  rw [transmit, onArrivals_reset hin']
  rfl

/-- Every instruction is abandoned by a reset that comes before anything else: only the reset is taken. -/
theorem exec_reset (i : Instr) (hin : s.inputs = .during .reset :: rest) :
    exec i s = .next (engineReset { s with inputs := rest }) := by
  obtain ⟨t, ht, hruns⟩ := exec_runs i s
  rw [ht]
  cases hruns with
  | ends u r eq same => rw [eq, deliver_reset r (same.inputs.trans hin), same.engineReset_eq]
  | transmits u eq same => rw [eq, transmit_reset (same.inputs.trans hin), same.engineReset_eq]
  | finishes u eq same => rw [eq, finish_reset (same.inputs.trans hin), same.engineReset_eq]

end

/-! ## A reset after the write -/

/-- An instruction that ends in a reset of the state `u` is abandoned after what stands on the wire of `u`. -/
theorem abandonedAfter_of_engineReset {i : Instr} {s u : State} {events : List TxEvent} {rest : List Input}
    (h : exec i s = .next (engineReset { u with inputs := rest })) (hparams : u.params = s.params)
    (hdelivered : u.delivered = s.delivered) (hwire : u.wire = s.wire ++ events) : AbandonedAfter i s events rest :=
  ⟨_, h, hdelivered, hwire, rfl, rfl, hparams, rfl⟩

section
variable {i : Instr} {frame : Bytes} {n : Nat} {dataLen : Option Nat} {s u : State} {rest : List Input}

/-- The reset lands after `k` reads answered `Nack`, before the next read or before `NoResponse` is delivered. -/
theorem Transmits.abandoned_afterNacks (h : Transmits i frame n dataLen s u) {k : Nat} (hk : k ≤ s.params.pollMax)
    (hin : s.inputs = .writeAnswer true :: (List.replicate k (.readAnswer none) ++ .during .reset :: rest)) :
    AbandonedAfter i s (.write frame true :: List.replicate k (.read n none)) rest := by
  obtain ⟨hnext, ⟨hparams, hinputs, hdelivered, hwire, -⟩, -, rfl, rfl, -⟩ := h
  rw [← hinputs] at hin
  obtain ⟨m, hm⟩ := Nat.exists_eq_add_of_le (hparams ▸ hk)
  have hreads : (txWrite (startAttempts u)).inputs =
      List.replicate k (.readAnswer none) ++ .during .reset :: rest := by simp [hin, dropWriteAnswer]
  rw [transmit_ack hin, hm, poll_afterNacks k m hreads, poll_reset m rfl] at hnext
  refine abandonedAfter_of_engineReset hnext hparams hdelivered ?_
  simp [afterNacks, hwire, writeAnswerOf, hin]

/-- The reset lands after the read that returned bytes, before the response is delivered. -/
theorem Transmits.abandoned_afterBytes (h : Transmits i frame n dataLen s u) {k : Nat} {rx : Bytes}
    (hk : k < s.params.pollMax) (hrx : rx.length = n)
    (hin : s.inputs = .writeAnswer true ::
      (List.replicate k (.readAnswer none) ++ .readAnswer (some rx) :: .during .reset :: rest)) :
    AbandonedAfter i s (.write frame true :: (List.replicate k (.read n none) ++ [.read n (some rx)])) rest := by
  obtain ⟨hnext, ⟨hparams, hinputs, hdelivered, hwire, -⟩, -, rfl, rfl, -⟩ := h
  rw [← hinputs] at hin
  obtain ⟨m, hm⟩ := Nat.exists_eq_add_of_lt (hparams ▸ hk)
  have hreads : (txWrite (startAttempts u)).inputs =
      List.replicate k (.readAnswer none) ++ .readAnswer (some rx) :: .during .reset :: rest := by
    simp [hin, dropWriteAnswer]
  rw [transmit_ack hin, hm, poll_bytes_afterNacks k m hreads hrx, finish_reset rfl] at hnext
  refine abandonedAfter_of_engineReset hnext hparams hdelivered ?_
  simp [afterNacks, hwire, writeAnswerOf, hin, readAnswerOf, fillRead_of_length hrx]

/-- The reset lands after a write answered `Nack`, before `NoResponse` is delivered. -/
theorem Transmits.abandoned_afterWriteNack (h : Transmits i frame n dataLen s u)
    (hin : s.inputs = .writeAnswer false :: .during .reset :: rest) :
    AbandonedAfter i s [.write frame false] rest := by
  obtain ⟨hnext, ⟨hparams, hinputs, hdelivered, hwire, -⟩, -, rfl, rfl, -⟩ := h
  rw [← hinputs] at hin
  have hreset : (txWrite (startAttempts u)).inputs = .during .reset :: rest := by simp [hin, dropWriteAnswer]
  rw [transmit_nack hin, deliver_reset _ hreset] at hnext
  refine abandonedAfter_of_engineReset hnext hparams hdelivered ?_
  simp [hwire, writeAnswerOf, hin]

end

/-! ## What transmits a frame -/

section
variable {i : Instr} {s : State} {opcode param1 : Byte} {param2 : Half} {payload : Bytes} {n : Nat}

theorem transmits_of_sendFrame {dataLen : Option Nat}
    (h : exec i s = .next (sendFrame opcode param1 param2 payload n dataLen s)) (hlen : respLenOk n = true)
    (hfits : 8 + payload.length ≤ s.params.frameMax) :
    ∃ d u, Transmits i (frameOf opcode param1 param2 payload) n d s u := by
  rw [sendFrame, if_pos hlen, if_pos (frameFits_iff.mpr hfits)] at h
  exact ⟨_, _, h, ⟨rfl, rfl, rfl, rfl, rfl⟩, rfl, frameBytes_eq_frameOf .., rfl, rfl⟩

theorem transmits_of_sendCommand {dataLen : Nat}
    (h : exec i s = .next (sendCommand opcode param1 param2 payload dataLen s))
    (hfits : 8 + payload.length ≤ s.params.frameMax) :
    ∃ d u, Transmits i (frameOf opcode param1 param2 payload) 38 d s u := transmits_of_sendFrame h rfl hfits

theorem transmits_of_runWire {f : Frame} {dataLen : Nat} (h : exec i s = .next (runWire opcode f dataLen s)) :
    ∃ d u, Transmits i (rawFrame opcode f) 38 d s u :=
  ⟨_, _, h, ⟨rfl, rfl, rfl, rfl, rfl⟩, rfl, rfl, rfl, rfl⟩

end

/-- A SEND or `CMD.*` inside its domain, and every frame, transmits what `sentBy` says. -/
theorem transmits_of_sentBy {i : Instr} {s : State} {frame : Bytes} {n : Nat}
    (hsent : sentBy s.params i = some (frame, n)) (hwf : isRequest i = true → wellFormed s.params i = true) :
    ∃ d u, Transmits i frame n d s u := by
  cases i with
  | send opcode param1 param2 payload respLen =>
    cases hsent
    obtain ⟨hlen, hfits⟩ := Bool.and_eq_true_iff.mp (hwf rfl)
    exact transmits_of_sendFrame rfl hlen (frameFits_iff.mp hfits)
  | cmdRead zone block offset fourByte =>
    cases hsent
    obtain ⟨hzone, hloc, hfits⟩ := wellFormed_cmdRead_iff.mp (hwf rfl)
    obtain ⟨z, hz⟩ := exists_zoneOfCode hzone
    rw [← readParam1_eq hz, ← locationParam_eq]
    exact transmits_of_sendCommand (exec_cmdRead hz (locationFits_iff.mpr hloc) fourByte) hfits
  | cmdWrite zone block offset data mac encrypted =>
    cases hsent
    obtain ⟨hzone, hloc, hdata, hmac, hfits⟩ := wellFormed_cmdWrite_iff.mp (hwf rfl)
    obtain ⟨z, hz⟩ := exists_zoneOfCode hzone
    rw [← writeParam1_eq hz, ← locationParam_eq]
    exact transmits_of_sendCommand (exec_cmdWrite hz (writeDataOk_iff.mpr hdata) (writeMacOk_iff.mpr hmac)
      (locationFits_iff.mpr hloc) encrypted) hfits
  | cmdNonce mode input =>
    cases hsent
    obtain ⟨hinput, hfits⟩ := wellFormed_cmdNonce_iff.mp (hwf rfl)
    exact transmits_of_sendCommand (exec_cmdNonce hinput) hfits
  | cmdGendig zone slot extra =>
    cases hsent
    obtain ⟨hzone, hslot, hfits⟩ := wellFormed_cmdGendig_iff.mp (hwf rfl)
    exact transmits_of_sendCommand (exec_cmdGendig (zoneOk_iff.mpr hzone) (slotOk_iff.mpr hslot) extra) hfits
  | cmdMac slot challenge flags =>
    cases hsent
    obtain ⟨hslot, hchallenge, hfits⟩ := wellFormed_cmdMac_iff.mp (hwf rfl)
    exact transmits_of_sendCommand (exec_cmdMac (slotOk_iff.mpr hslot) (macChallengeOk_iff.mpr hchallenge) flags) hfits
  | cmdCheckmac slot challenge response otherData flags =>
    cases hsent
    obtain ⟨hslot, hchallenge, hresponse, hother, hframe⟩ := wellFormed_cmdCheckmac_iff.mp (hwf rfl)
    have hfits : 8 + (challenge ++ response ++ otherData).length ≤ s.params.frameMax := by
      simp only [List.length_append]
      omega
    exact transmits_of_sendCommand (exec_cmdCheckmac (slotOk_iff.mpr hslot) (lenOk_iff.mpr hchallenge)
      (lenOk_iff.mpr hresponse) (lenOk_iff.mpr hother) flags) hfits
  | cmdLock isData checksum skipChecksum =>
    cases hsent
    exact transmits_of_sendCommand rfl (wellFormed_cmdLock_iff.mp (hwf rfl))
  | wireRead | wireWrite | wireNonce | wireGendig | wireMac | wireCheckmac | wireLock =>
    cases hsent
    exact transmits_of_runWire rfl
  | _ => cases hsent

end Sys2Proof.Machine
end

section
/-! The statements about a reset during an operation. -/

namespace Sys2Proof.Proofs

open Sys2Proof.Machine Sys2Proof.Spec

/-- Settles O46: the reset is all that is taken, and it touches the engine only. -/
theorem resetAbandonsTheOperation : Obligations.ResetAbandonsTheOperation := fun i _ _ hin =>
  ⟨_, exec_reset i hin, rfl, rfl, rfl, rfl, rfl, rfl⟩

/-- Settles O47, by the three places after the write of a transmitted frame where the reset can land. -/
theorem resetAfterTheWriteLeavesTheFrameSent : Obligations.ResetAfterTheWriteLeavesTheFrameSent := by
  intro i s frame n rest hsent hwf
  obtain ⟨d, u, htransmits⟩ := transmits_of_sentBy hsent hwf
  exact ⟨fun k hk hin => htransmits.abandoned_afterNacks hk hin,
    fun k rx hk hrx hin => htransmits.abandoned_afterBytes hk hrx hin,
    fun hin => htransmits.abandoned_afterWriteNack hin⟩

end Sys2Proof.Proofs
end
